-- ==== Sys2Proof/Word.lean ====
section
/-! DEFINITION. The machine's words: bytes, offsets, the two encoded selectors, and the direction bit
(rules R1, R7, R70, R79). -/

namespace Sys2Proof

/-- A byte, unsigned (rule R7). -/
abbrev Byte := BitVec 8

/-- A 64-bit offset of the host, copied and never computed with (rules R7, R214). -/
abbrev Offset := BitVec 64

/-- The packed 11-bit header of an input transaction (rule R70). -/
abbrev Header := BitVec 11

/-- The 16-bit dispatch key of a completed frame (rule R79). -/
abbrev Key := BitVec 16

/-- A direction, which is also the number of a channel (rule R1): AM is 0, MA is 1. -/
inductive Dir where
  /-- Appliance to module, channel 0. -/
  | am
  /-- Module to appliance, channel 1. -/
  | ma
deriving DecidableEq, Repr

/-- The other channel's direction. -/
def Dir.other : Dir → Dir
  | .am => .ma
  | .ma => .am

/-- The number of the channel, `d` in the spec's arithmetic. -/
def Dir.toNat : Dir → Nat
  | .am => 0
  | .ma => 1

end Sys2Proof
end

