-- ==== Sys2Proof/Config.lean ====
section
/-! DEFINITION. The constants (rule R3) and the configuration parameters (rules R4, R27) as data. The
configuration is a field of the machine's state: the spec leaves its values to the integrator, so nothing
here fixes one. The spec leaves no value free beside them (rule R141), so there is no free value. -/

namespace Sys2Proof

/-- The four conversions of the field extractor (rule R82), whose codes are `Conv.code`. -/
inductive Conv where
  | raw
  | setpointX2
  | tempX2
  | ipRev4
deriving DecidableEq, Repr

/-- A field descriptor `(fid, i, conv, lsb, width)` with the register widths of rule R83. -/
structure FieldDesc where
  fid   : BitVec 8
  i     : BitVec 8
  conv  : Conv
  lsb   : BitVec 3
  width : BitVec 4
deriving DecidableEq, Repr

/-- `CRC8_PARAMS` (rules R4, R27). -/
structure CrcParams where
  poly   : Byte
  init   : Byte
  refIn  : Bool
  refOut : Bool
  xorOut : Byte
deriving DecidableEq, Repr

/-- The configuration registers of rule R27. -/
structure Config where
  crcPresent : Bool
  cksStart   : BitVec 2
  crc        : CrcParams
  acExtra    : List FieldDesc
  netExtra   : List FieldDesc
deriving DecidableEq, Repr

end Sys2Proof
end

