-- ==== Sys2Proof/Syntax.lean ====
section
/-! DEFINITION. The instructions of MSFR: the rows of `opcode_table.json` in its three formats, with the
operands their rules give them (rules R70, R90, R170). -/

namespace Sys2Proof

/-- The eleven phases of a channel; a phase type has exactly these values (rules R90, R91). -/
inductive Phase where
  | idle | len | appType | fixed | msgId | fwVer | applVer | msgType | body | crc | cks
deriving DecidableEq, Repr

/-- The ten message handlers the dispatcher selects (rules R80, R160). -/
inductive Handler where
  | h02Ac | h03Ac | h02 | h03 | h04 | h05 | h63 | h81 | h82 | hDefault
deriving DecidableEq, Repr

/-- The operands every handler takes (rule R170): the direction, the two bytes of the dispatch key, the body,
the CRC flag, the frame's start and the checksum byte's end offset. -/
structure FrameArgs where
  dir        : Dir
  appType    : Byte
  msgType    : Byte
  body       : List Byte
  crcOk      : Bool
  frameStart : Offset
  stop       : Offset
deriving DecidableEq, Repr

/-- One constructor per row of `opcode_table.json`.
An input operation and a phase step carry `(d, b, s, e)`: the direction, the byte, and the byte's `start` and
`end` offsets (rules R70, R120, R121). A handler carries the operands of rule R170. -/
inductive Instr where
  | other   (d : Dir) (b : Byte) (s e : Offset)
  | data    (d : Dir) (b : Byte) (s e : Offset)
  | reset   (d : Dir) (b : Byte) (s e : Offset)
  | idle    (d : Dir) (b : Byte) (s e : Offset)
  | len     (d : Dir) (b : Byte) (s e : Offset)
  | appType (d : Dir) (b : Byte) (s e : Offset)
  | fixed   (d : Dir) (b : Byte) (s e : Offset)
  | msgId   (d : Dir) (b : Byte) (s e : Offset)
  | fwVer   (d : Dir) (b : Byte) (s e : Offset)
  | applVer (d : Dir) (b : Byte) (s e : Offset)
  | msgType (d : Dir) (b : Byte) (s e : Offset)
  | body    (d : Dir) (b : Byte) (s e : Offset)
  | crc     (d : Dir) (b : Byte) (s e : Offset)
  | cks     (d : Dir) (b : Byte) (s e : Offset)
  | h02Ac    (f : FrameArgs)
  | h03Ac    (f : FrameArgs)
  | h02      (f : FrameArgs)
  | h03      (f : FrameArgs)
  | h04      (f : FrameArgs)
  | h05      (f : FrameArgs)
  | h63      (f : FrameArgs)
  | h81      (f : FrameArgs)
  | h82      (f : FrameArgs)
  | hDefault (f : FrameArgs)
deriving DecidableEq, Repr

/-- The phase step of a phase, as an instruction (rule R121). -/
def Phase.instr (p : Phase) (d : Dir) (b : Byte) (s e : Offset) : Instr :=
  match p with
  | .idle    => .idle d b s e
  | .len     => .len d b s e
  | .appType => .appType d b s e
  | .fixed   => .fixed d b s e
  | .msgId   => .msgId d b s e
  | .fwVer   => .fwVer d b s e
  | .applVer => .applVer d b s e
  | .msgType => .msgType d b s e
  | .body    => .body d b s e
  | .crc     => .crc d b s e
  | .cks     => .cks d b s e

/-- The handler's routine, as an instruction (rule R161). -/
def Handler.instr (h : Handler) (f : FrameArgs) : Instr :=
  match h with
  | .h02Ac    => .h02Ac f
  | .h03Ac    => .h03Ac f
  | .h02      => .h02 f
  | .h03      => .h03 f
  | .h04      => .h04 f
  | .h05      => .h05 f
  | .h63      => .h63 f
  | .h81      => .h81 f
  | .h82      => .h82 f
  | .hDefault => .hDefault f

end Sys2Proof
end

