-- ==== Sys2Proof/WellFormed.lean ====
section
/-! DEFINITION. Which instructions are well-formed: which terms of `Instr` an encoding of the table stands
for. -/

namespace Sys2Proof

/-- The longest body a frame can have: `length = 255` with a one-byte trailer (rule R124). -/
def maxBody : Nat := 246

/-- The body operand is one a frame can carry. -/
def FrameArgs.bodyFits (f : FrameArgs) : Bool := decide (f.body.length ≤ maxBody)

/-- The message types that have a row of the dispatch table (rule R80). -/
def registeredTypes : List Byte := [0x02, 0x03, 0x04, 0x05, 0x63, 0x81, 0x82]

/-- A handler's operands carry the key of its own row and of no row of higher precedence (rules R79, R80);
an input operation and a phase step have no illegal operand (rules R92, R121). -/
def Instr.wf : Instr → Bool
  | .other _ _ _ _   => true
  | .data _ _ _ _    => true
  | .reset _ _ _ _   => true
  | .idle _ _ _ _    => true
  | .len _ _ _ _     => true
  | .appType _ _ _ _ => true
  | .fixed _ _ _ _   => true
  | .msgId _ _ _ _   => true
  | .fwVer _ _ _ _   => true
  | .applVer _ _ _ _ => true
  | .msgType _ _ _ _ => true
  | .body _ _ _ _    => true
  | .crc _ _ _ _     => true
  | .cks _ _ _ _     => true
  | .h02Ac f    => f.bodyFits && (f.msgType == 0x02 && f.appType == 0xAC)
  | .h03Ac f    => f.bodyFits && (f.msgType == 0x03 && f.appType == 0xAC)
  | .h02 f      => f.bodyFits && (f.msgType == 0x02 && f.appType != 0xAC)
  | .h03 f      => f.bodyFits && (f.msgType == 0x03 && f.appType != 0xAC)
  | .h04 f      => f.bodyFits && f.msgType == 0x04
  | .h05 f      => f.bodyFits && f.msgType == 0x05
  | .h63 f      => f.bodyFits && f.msgType == 0x63
  | .h81 f      => f.bodyFits && f.msgType == 0x81
  | .h82 f      => f.bodyFits && f.msgType == 0x82
  | .hDefault f => f.bodyFits && !registeredTypes.contains f.msgType

end Sys2Proof
end

