-- ==== Sys2Proof/Decode.lean ====
section
/-! DEFINITION. The three encodings of `opcode_table.json`: the decoder, total and rejecting by name, and the
encoder; and the host's probe `decodeTableWord`. -/

namespace Sys2Proof

/-- An encoded instruction in one of the table's three formats, with the operands that travel beside the
selecting field:
an input header with its offsets (rule R70); a phase code with the DATA transaction that reaches it (rules R90,
R121); a dispatch key with the handler's other operands (rules R79, R170). -/
inductive Encoded where
  | input    (hdr : Header) (start stop : Offset)
  | phase    (code : BitVec 4) (hdr : Header) (start stop : Offset)
  | dispatch (key : Key) (dir : Dir) (body : List Byte) (crcOk : Bool) (frameStart stop : Offset)
deriving DecidableEq, Repr

/-- Why an encoding has no instruction (rules R91, R92). -/
inductive Reject where
  /-- An input header with `op = 11` (rules R71, R92; 93 I1). -/
  | reservedOp
  /-- A phase code from 11 to 15 (rule R91). -/
  | reservedPhase
  /-- A phase code beside a header that is no DATA header: a phase step is reached from DATA alone (rule R121). -/
  | phaseWithoutData
  /-- A body longer than any frame's (rule R124). -/
  | bodyTooLong
deriving DecidableEq, Repr

/-! ### The input header -/

/-- The direction bit: 0 is AM, 1 is MA (rule R70). -/
def Dir.ofBit (b : BitVec 1) : Dir := if b = 1#1 then .ma else .am

/-- The direction as the header's bit. -/
def Dir.bit : Dir → BitVec 1
  | .am => 0#1
  | .ma => 1#1

/-- `hdr[10:9]`, the operation (rule R70). -/
def Header.op (h : Header) : BitVec 2 := h.extractLsb' 9 2

/-- `hdr[8]`, the direction (rule R70). -/
def Header.dir (h : Header) : Dir := Dir.ofBit (h.extractLsb' 8 1)

/-- `hdr[7:0]`, the byte (rule R70). -/
def Header.byte (h : Header) : Byte := h.extractLsb' 0 8

/-- Packing a header (rule R70). -/
def packHeader (op : BitVec 2) (d : Dir) (b : Byte) : Header := op ++ d.bit ++ b

/-- The input operation a header selects (rule R71). -/
def decodeInput (hdr : Header) (s e : Offset) : Except Reject Instr :=
  if hdr.op = 0b00#2 then .ok (.other hdr.dir hdr.byte s e)
  else if hdr.op = 0b01#2 then .ok (.data hdr.dir hdr.byte s e)
  else if hdr.op = 0b10#2 then .ok (.reset hdr.dir hdr.byte s e)
  else .error .reservedOp

/-! ### The phase code -/

/-- The code of a phase (rule R90). -/
def Phase.code : Phase → BitVec 4
  | .idle    => 0
  | .len     => 1
  | .appType => 2
  | .fixed   => 3
  | .msgId   => 4
  | .fwVer   => 5
  | .applVer => 6
  | .msgType => 7
  | .body    => 8
  | .crc     => 9
  | .cks     => 10

/-- The phases in the order of rule R90. -/
def phaseList : List Phase :=
  [.idle, .len, .appType, .fixed, .msgId, .fwVer, .applVer, .msgType, .body, .crc, .cks]

/-- The phase a code names, none for the reserved codes 11 to 15 (rules R90, R91). -/
def decodePhase (code : BitVec 4) : Option Phase := phaseList.find? (fun p => p.code == code)

/-! ### The dispatch key -/

/-- A row of the dispatch format: it matches when `(key & mask) = pattern` (rule R79). -/
structure DispatchRow where
  handler : Handler
  pattern : Key
  mask    : Key
deriving DecidableEq, Repr

/-- The registered rows, exact rows first and the default last (rule R80). -/
def dispatchRows : List DispatchRow :=
  [⟨.h02Ac, 0x02AC, 0xFFFF⟩, ⟨.h03Ac, 0x03AC, 0xFFFF⟩, ⟨.h02, 0x0200, 0xFF00⟩, ⟨.h03, 0x0300, 0xFF00⟩,
   ⟨.h04, 0x0400, 0xFF00⟩, ⟨.h05, 0x0500, 0xFF00⟩, ⟨.h63, 0x6300, 0xFF00⟩, ⟨.h81, 0x8100, 0xFF00⟩,
   ⟨.h82, 0x8200, 0xFF00⟩, ⟨.hDefault, 0x0000, 0x0000⟩]

/-- Does a row match a key (rule R79)? -/
def DispatchRow.matchesKey (r : DispatchRow) (key : Key) : Bool := key &&& r.mask == r.pattern

/-- The handler of a key: the first row that matches, the rows being listed with more mask bits first
(rules R79, R80). No key is illegal (rule R81). -/
def decodeKey (key : Key) : Handler :=
  match dispatchRows.find? (fun r => r.matchesKey key) with
  | some r => r.handler
  | none   => .hDefault

/-- `key = msgType << 8 | appType` (rule R79). -/
def packKey (msgType appType : Byte) : Key := msgType ++ appType

/-- `key[15:8]` (rule R79). -/
def Key.msgType (k : Key) : Byte := k.extractLsb' 8 8

/-- `key[7:0]` (rule R79). -/
def Key.appType (k : Key) : Byte := k.extractLsb' 0 8

/-! ### The conversion code of a field descriptor -/

/-- The 2-bit code of a conversion (rule R82). -/
def Conv.code : Conv → BitVec 2
  | .raw        => 0
  | .setpointX2 => 1
  | .tempX2     => 2
  | .ipRev4     => 3

/-- The conversion a code names; every code names one (rules R82, R83). -/
def decodeConv (code : BitVec 2) : Conv :=
  if code = 0 then .raw else if code = 1 then .setpointX2 else if code = 2 then .tempX2 else .ipRev4

/-! ### The decoder -/

/-- The decoder over the three formats. -/
def decode : Encoded → Except Reject Instr
  | .input hdr s e => decodeInput hdr s e
  | .phase code hdr s e =>
    if hdr.op = 0b01#2 then
      match decodePhase code with
      | some p => .ok (p.instr hdr.dir hdr.byte s e)
      | none   => .error .reservedPhase
    else .error .phaseWithoutData
  | .dispatch key d body ok fs e =>
    if body.length ≤ maxBody then .ok ((decodeKey key).instr ⟨d, key.appType, key.msgType, body, ok, fs, e⟩)
    else .error .bodyTooLong

/-! ### The encoder -/

/-- The encoding of a phase step: its code beside the DATA header that carries its byte (rules R90, R121). -/
def encodePhase (p : Phase) (d : Dir) (b : Byte) (s e : Offset) : Encoded :=
  .phase p.code (packHeader 0b01 d b) s e

/-- The encoding of a handler: its frame's key beside the other operands (rules R79, R170). -/
def encodeHandler (f : FrameArgs) : Encoded :=
  .dispatch (packKey f.msgType f.appType) f.dir f.body f.crcOk f.frameStart f.stop

/-- The encoding of an instruction, from the encoding column of the opcode table. -/
def encode : Instr → Encoded
  | .other d b s e   => .input (packHeader 0b00 d b) s e
  | .data d b s e    => .input (packHeader 0b01 d b) s e
  | .reset d b s e   => .input (packHeader 0b10 d b) s e
  | .idle d b s e    => encodePhase .idle d b s e
  | .len d b s e     => encodePhase .len d b s e
  | .appType d b s e => encodePhase .appType d b s e
  | .fixed d b s e   => encodePhase .fixed d b s e
  | .msgId d b s e   => encodePhase .msgId d b s e
  | .fwVer d b s e   => encodePhase .fwVer d b s e
  | .applVer d b s e => encodePhase .applVer d b s e
  | .msgType d b s e => encodePhase .msgType d b s e
  | .body d b s e    => encodePhase .body d b s e
  | .crc d b s e     => encodePhase .crc d b s e
  | .cks d b s e     => encodePhase .cks d b s e
  | .h02Ac f    => encodeHandler f
  | .h03Ac f    => encodeHandler f
  | .h02 f      => encodeHandler f
  | .h03 f      => encodeHandler f
  | .h04 f      => encodeHandler f
  | .h05 f      => encodeHandler f
  | .h63 f      => encodeHandler f
  | .h81 f      => encodeHandler f
  | .h82 f      => encodeHandler f
  | .hDefault f => encodeHandler f

/-! ### The host's probe -/

/-- The byte the probe presents to a phase step: the sync byte, which every phase takes (rules R126, R137). -/
def probeByte : Byte := 0xAA

/-- A table word as an encoding, by the width its format has in the table.
DESIGN CHOICE (log entry 10; safe: no rule reads it): a word of up to 8 bits is a phase code and one of 9 to 15
bits an input header; a 16-bit word is a dispatch key, unless no registered row matches it and it is a legal
input header, the table's two formats of more than 8 bits sharing one numbering. -/
def tableWord (nbits w : Nat) : Option Encoded :=
  if nbits ≤ 8 then
    if w < 16 then some (.phase (BitVec.ofNat 4 w) (packHeader 0b01 .am probeByte) 0 0) else none
  else if nbits < 16 then
    if w < 2048 then some (.input (BitVec.ofNat 11 w) 0 0) else none
  else if nbits = 16 then
    if w < 65536 then
      if decodeKey (BitVec.ofNat 16 w) = .hDefault ∧ w < 1536 then some (.input (BitVec.ofNat 11 w) 0 0)
      else some (.dispatch (BitVec.ofNat 16 w) .am [] false 0 0)
    else none
  else none

/-- What the decoder gives for a table word. -/
def decodeTableWord (nbits w : Nat) : Option Instr :=
  match tableWord nbits w with
  | some word =>
    match decode word with
    | .ok i    => some i
    | .error _ => none
  | none => none

end Sys2Proof
end

