-- ==== Sys2Proof/Machine/Memory.lean ====
section
/-! DEFINITION. A channel's frame buffer `buf[0..255]` (rules R22, R50) as a list of (index, byte) pairs in one
canonical form, with its read, write and range operations. -/

namespace Sys2Proof.Machine

open Sys2Proof

/-- A frame buffer: the listed indices rise strictly and no listed byte is the one an unlisted index reads as. -/
abbrev Memory := List Host.Cell

/-- What an unlisted index reads as: the buffer is cleared to `0x00` at every reset (rule R30; log entry 15). -/
def unlistedByte : Byte := 0x00

/-- The number of bytes of a buffer; the indices are 0 to 255 (rule R50). -/
def bufferSize : Nat := 256

/-- `buf[a]`, one byte (rule R6). -/
def Memory.read : Memory → Nat → Byte
  | [], _ => unlistedByte
  | (k, v) :: rest, a => if k = a then v else Memory.read rest a

/-- A cell for a byte, none when an unlisted index reads as that byte already. -/
def cellFor (a : Nat) (v : Byte) : Memory := if v = unlistedByte then [] else [(a, v)]

/-- `MemWrite(a, 1, v)`: `buf[a] <- v`, the only write width (rules R6, R56). -/
def Memory.write : Memory → Nat → Byte → Memory
  | [], a, v => cellFor a v
  | (k, w) :: rest, a, v =>
    if a < k then cellFor a v ++ (k, w) :: rest
    else if a = k then cellFor a v ++ rest
    else (k, w) :: Memory.write rest a v

/-- `MemRead(lo, n)`: the `n` bytes from index `lo`, in increasing index order (rule R6). -/
def Memory.slice (m : Memory) (lo : Nat) : Nat → List Byte
  | 0 => []
  | n + 1 => m.read lo :: Memory.slice m (lo + 1) n

/-- The canonical form from a lowest index on. -/
def Memory.wfFrom (lo : Nat) : Memory → Bool
  | [] => true
  | (k, v) :: rest => decide (lo ≤ k) && v != unlistedByte && Memory.wfFrom (k + 1) rest

/-- The canonical form: indices strictly rising, no byte listed that an unlisted index reads as. -/
def Memory.wf (m : Memory) : Bool := Memory.wfFrom 0 m

end Sys2Proof.Machine
end

