-- ==== Sys2Proof/Machine/Channel.lean ====
section
/-! DEFINITION. The registers of one channel (rule R22) and their reset values (rule R30). -/

namespace Sys2Proof.Machine

open Sys2Proof

/-- The registers of a channel, with the widths of rule R22. -/
structure Channel where
  phase      : Phase
  buf        : Memory
  idx        : BitVec 9
  len        : BitVec 8
  bodyLen    : BitVec 8
  frameStart : Offset
  fieldStart : Offset
  bodyStart  : Offset
  crcOk      : Bool
deriving DecidableEq, Repr

/-- The reset values of rule R30. -/
def Channel.resetValue : Channel :=
  { phase := .idle, buf := [], idx := 0, len := 0, bodyLen := 0, frameStart := 0, fieldStart := 0,
    bodyStart := 0, crcOk := false }

end Sys2Proof.Machine
end

