-- ==== Sys2Proof/Machine/Configuration.lean ====
section
/-! DEFINITION. The configuration this hardware ties its inputs to (rules R4, R27), the two values that follow
from it (rules R5, R125), and which configurations are legal (rules R27, R83, R176). -/

namespace Sys2Proof.Machine

open Sys2Proof

/-- The CRC-8 parameters this hardware ties. PRESUMED (log entry 9; unsafe): the spec marks these values
"from general knowledge, not in source" (rule R27; 93 G1). -/
def tiedCrc : CrcParams := { poly := 0x31, init := 0x00, refIn := true, refOut := true, xorOut := 0x00 }

/-- The configuration this hardware ties its inputs to (rules R4, R27). -/
def tiedConfig : Config :=
  { crcPresent := true, cksStart := 1, crc := tiedCrc, acExtra := [], netExtra := [] }

/-- `T`, the length of the trailer (rule R5). -/
def trailerLen (cfg : Config) : Nat := if cfg.crcPresent then 2 else 1

/-- `AFTER_BODY` (rule R125). -/
def afterBody (cfg : Config) : Phase := if cfg.crcPresent then .crc else .cks

/-- How many body bytes a conversion reads (rules R82, R171). -/
def convBytes : Conv → Nat
  | .raw        => 1
  | .setpointX2 => 1
  | .tempX2     => 1
  | .ipRev4     => 4

/-- The highest body index of rule R83. -/
def convLastIndex : Conv → Nat
  | .raw        => 244
  | .setpointX2 => 244
  | .tempX2     => 244
  | .ipRev4     => 241

/-- The ranges of a descriptor (rule R83): `lsb` and `width` are used by `RAW` only and 0 otherwise. -/
def descLegal (desc : FieldDesc) : Bool :=
  decide (desc.i.toNat ≤ convLastIndex desc.conv) &&
    match desc.conv with
    | .raw => decide (1 ≤ desc.width.toNat) && decide (desc.width.toNat ≤ 8) &&
        decide (desc.lsb.toNat + desc.width.toNat ≤ 8)
    | .setpointX2 => desc.lsb == 0 && desc.width == 0
    | .tempX2     => desc.lsb == 0 && desc.width == 0
    | .ipRev4     => desc.lsb == 0 && desc.width == 0

/-- Is each fid listed at most once (rule R176)? -/
def fidsDistinct : List FieldDesc → Bool
  | [] => true
  | desc :: rest => !(rest.any (fun other => other.fid == desc.fid)) && fidsDistinct rest

/-- An extras list whose fids lie in `lo .. hi` (rule R176). -/
def extrasLegal (lo hi : BitVec 8) (extras : List FieldDesc) : Bool :=
  decide (extras.length ≤ 32) && extras.all descLegal &&
    extras.all (fun desc => decide (lo ≤ desc.fid) && decide (desc.fid ≤ hi)) && fidsDistinct extras

/-- Is the configuration one a model accepts (rules R27, R83, R176)? -/
def configLegal (cfg : Config) : Bool :=
  (cfg.cksStart == 1 || cfg.cksStart == 2) && extrasLegal 0x10 0x18 cfg.acExtra &&
    extrasLegal 0x20 0x25 cfg.netExtra

end Sys2Proof.Machine
end

