-- ==== Sys2Proof/Machine/Event.lean ====
section
/-! DEFINITION. The output event record (rules R86 to R89), its codes (rules R85, R87, R88), and the stamp the
event emitter puts on it (rules R210, R212). -/

namespace Sys2Proof.Machine

open Sys2Proof

/-- The sixteen event kinds (rule R87). -/
inductive EventKind where
  | sync | length | appType | fixed | msgId | fwVer | applVer | msgType | body | crcValue | cksValue | cmd
  | unrecognized | errCrc | errCks | errUnexpectedDir
deriving DecidableEq, Repr

/-- The 4-bit kind code, which is also the cause code of an error (rules R87, R231). -/
def EventKind.code : EventKind → BitVec 4
  | .sync             => 0
  | .length           => 1
  | .appType          => 2
  | .fixed            => 3
  | .msgId            => 4
  | .fwVer            => 5
  | .applVer          => 6
  | .msgType          => 7
  | .body             => 8
  | .crcValue         => 9
  | .cksValue         => 10
  | .cmd              => 11
  | .unrecognized     => 12
  | .errCrc           => 13
  | .errCks           => 14
  | .errUnexpectedDir => 15

/-- The meaning of a CMD event (rule R85). -/
inductive Meaning where
  | ctrlResponse | ctrlCommand | acStatus | acControl | queryResponse | query | acQueryResponse | acQuery
  | opparamReport | opparamReportUnexpected | opparamReportRespRequired | opparamResponse | netStatus | netQuery
  | modeSwitchResult | modeSwitchRequest | restartResult | restartRequest
deriving DecidableEq, Repr

/-- The meaning code (rule R85). -/
def Meaning.code : Meaning → BitVec 8
  | .ctrlResponse              => 0x00
  | .ctrlCommand               => 0x01
  | .acStatus                  => 0x02
  | .acControl                 => 0x03
  | .queryResponse             => 0x04
  | .query                     => 0x05
  | .acQueryResponse           => 0x06
  | .acQuery                   => 0x07
  | .opparamReport             => 0x08
  | .opparamReportUnexpected   => 0x09
  | .opparamReportRespRequired => 0x0A
  | .opparamResponse           => 0x0B
  | .netStatus                 => 0x0C
  | .netQuery                  => 0x0D
  | .modeSwitchResult          => 0x0E
  | .modeSwitchRequest         => 0x0F
  | .restartResult             => 0x10
  | .restartRequest            => 0x11

/-- An extracted field `(fid, value)`. DESIGN CHOICE (log entry 14; safe): the signed 33-bit value of rule R89 is
an exact integer, and that it fits 33 bits is a statement. -/
abbrev Field := BitVec 8 × Int

/-- The payload of each kind (rule R89). -/
inductive Payload where
  | sync (byte : Byte)
  | length (value : Byte)
  | appType (value : Byte)
  | fixed (b0 b1 : Byte)
  | msgId (value : Byte)
  | fwVer (value : Byte)
  | applVer (value : Byte)
  | msgType (value : Byte)
  | body (bytes : List Byte)
  | crcValue (stored computed : Byte) (ok : Bool)
  | cksValue (stored expected : Byte) (ok : Bool)
  | cmd (dir : Dir) (appType msgType : Byte) (meaning : Meaning) (fields : List Field)
  | unrecognized (dir : Dir) (appType msgType : Byte)
  | errCrc (dir : Dir) (stored computed : Byte)
  | errCks (dir : Dir) (stored expected : Byte)
  | errUnexpectedDir (dir : Dir) (appType msgType : Byte)
deriving DecidableEq, Repr

/-- The kind whose payload this is (rule R89). -/
def Payload.kind : Payload → EventKind
  | .sync _               => .sync
  | .length _             => .length
  | .appType _            => .appType
  | .fixed _ _            => .fixed
  | .msgId _              => .msgId
  | .fwVer _              => .fwVer
  | .applVer _            => .applVer
  | .msgType _            => .msgType
  | .body _               => .body
  | .crcValue _ _ _       => .crcValue
  | .cksValue _ _ _       => .cksValue
  | .cmd _ _ _ _ _        => .cmd
  | .unrecognized _ _ _   => .unrecognized
  | .errCrc _ _ _         => .errCrc
  | .errCks _ _ _         => .errCks
  | .errUnexpectedDir _ _ _ => .errUnexpectedDir

/-- An output event `(start, end, lane, kind, payload)` (rule R86). -/
structure Event where
  start   : Offset
  stop    : Offset
  lane    : BitVec 4
  kind    : EventKind
  payload : Payload
deriving DecidableEq, Repr

/-- The shared error lane (rule R88). -/
def errorLane : BitVec 4 := 10

/-- The lane group of a kind, none for the kinds of the shared error lane (rule R88). -/
def EventKind.laneGroup : EventKind → Option Nat
  | .sync             => some 0
  | .length           => some 1
  | .appType          => some 1
  | .fixed            => some 1
  | .msgId            => some 1
  | .fwVer            => some 1
  | .applVer          => some 1
  | .msgType          => some 1
  | .body             => some 2
  | .crcValue         => some 3
  | .cksValue         => some 3
  | .cmd              => some 4
  | .unrecognized     => some 4
  | .errCrc           => none
  | .errCks           => none
  | .errUnexpectedDir => none

/-- The lane of an event: `5d + k`, or the error lane; a function of kind and direction alone (rules R88, R212). -/
def EventKind.lane (k : EventKind) (d : Dir) : BitVec 4 :=
  match k.laneGroup with
  | some g => BitVec.ofNat 4 (5 * d.toNat + g)
  | none   => errorLane

/-- `emit K(start, end, payload)`: the emitter stamps kind and lane on the event (rules R6, R210, R212). -/
def stamp (d : Dir) (start stop : Offset) (p : Payload) : Event :=
  { start := start, stop := stop, lane := p.kind.lane d, kind := p.kind, payload := p }

end Sys2Proof.Machine
end

