-- ==== Sys2Proof/Machine/State.lean ====
section
/-! DEFINITION. The state of MSFR: the two channel records (rule R20), the configuration in force (rule R27), and
the ports of the host (rules R70, R210), as plain data; the reasons a step can stop; the state after RESET. -/

namespace Sys2Proof.Machine

open Sys2Proof

/-- An input transaction: the packed header and the two offsets beside it (rule R70). -/
structure Transaction where
  hdr   : Header
  start : Offset
  stop  : Offset
deriving DecidableEq, Repr

/-- The machine's state. -/
structure State where
  /-- `ch[0]`, appliance to module (rule R20). -/
  am : Channel
  /-- `ch[1]`, module to appliance (rule R20). -/
  ma : Channel
  /-- The configuration in force, sampled at RESET (rule R27; log entry 1). -/
  cfg : Config
  /-- The configuration inputs that the next RESET samples (rules R27, R256; log entry 2). -/
  cfgIn : Config
  /-- The transactions the host will present, the next one first (rules R70, R252; log entry 3). -/
  input : List Transaction
  /-- The events delivered so far, the oldest first (rules R210, R213; log entry 4). -/
  output : List Event
  /-- A RESET has been presented (rules R32, R251; log entry 6). -/
  launched : Bool
deriving DecidableEq, Repr

/-- Why the machine stops with a fault. MSFR itself never faults (rules R230, R245). -/
inductive Fault where
  /-- Raised by STORE when `idx` is over 255 and by a range read that runs past index 255: the buffer has no such
  byte (rule R50). No run reaches it (rule R142). Safe (log entry 7). -/
  | bufferIndex
deriving DecidableEq, Repr

/-- Why the model gives an input no meaning (rule R245). A refusal ends the run (log entry 5). -/
inductive Refusal where
  /-- Raised by exec's arm of an instruction that has no meaning yet. Safe. -/
  | notModelled (mnemonic : String)
  /-- Raised by a step whose next transaction has an encoding without an instruction: `op = 11` (rule R92; 93 I1).
  Safe. -/
  | reservedEncoding (reason : Reject)
  /-- Raised by RESET when it samples an illegal configuration (rules R27, R176; 93 I3, I4). Safe. -/
  | illegalConfiguration
  /-- Raised by a step that takes DATA or OTHER before the first RESET (rule R32; 93 I2). Safe. -/
  | beforeFirstReset
deriving DecidableEq, Repr

/-- The state after RESET (rules R30, R32, R251): both channels at their reset values, the configuration this
hardware ties sampled, no transaction pending, no event emitted. -/
def State.reset : State :=
  { am := Channel.resetValue, ma := Channel.resetValue, cfg := tiedConfig, cfgIn := tiedConfig, input := [],
    output := [], launched := true }

end Sys2Proof.Machine
end

