-- ==== Sys2Proof/Machine/Ops.lean ====
section
/-! DEFINITION. The named operations over channels, buffers and ports that every step shares: the body length
(rule R124), STORE (rule R123), range reads (rule R6), the events a step emits, the end of a step (rule R8),
RESET's channel values (rule R138), and taking the next transaction (rules R61, R251, R252).
MSFR takes no exception and returns from none (rules R230, R234, R235); what an error does instead is to add an
event on the shared error lane, which is `errorEvent`. -/

namespace Sys2Proof.Machine

open Sys2Proof

/-- `ch[d]` (rule R6). -/
def State.ch (s : State) : Dir → Channel
  | .am => s.am
  | .ma => s.ma

/-- `ch[d] <- c` (rule R6). -/
def State.setCh (s : State) (d : Dir) (c : Channel) : State :=
  match d with
  | .am => { s with am := c }
  | .ma => { s with ma := c }

/-- The events appended to the output (rules R6, R213). -/
def State.emit (s : State) (evs : List Event) : State := { s with output := s.output ++ evs }

/-- `SYNC` (rule R3). -/
def syncByte : Byte := 0xAA

/-- `OFF_APPTYPE` (rule R3). -/
def offAppType : Nat := 2

/-- The first of the two fixed bytes' offsets, `OFF_FIXED` (rule R3). -/
def offFixed : Nat := 3

/-- `OFF_MSGTYPE` (rule R3). -/
def offMsgType : Nat := 8

/-- `BODY_START` (rule R3). -/
def bodyStartOffset : Nat := 9

/-- `bodyLen = max(0, len - 8 - T)` (rule R124), the subtraction of naturals being the guarded one. -/
def bodyLength (cfg : Config) (len : Byte) : BitVec 8 := BitVec.ofNat 8 (len.toNat - 8 - trailerLen cfg)

/-- The channel after STORE's two writes, `buf[idx] <- b` and `idx <- idx + 1` (rule R123). -/
def stored (c : Channel) (b : Byte) : Channel :=
  { c with buf := c.buf.write c.idx.toNat b, idx := c.idx + 1 }

/-- `STORE(d, b)` (rule R123): the byte at `idx`, `idx` one up; it returns the frame offset of the byte.
An index past the buffer's last byte faults (log entry 7). -/
def store (c : Channel) (b : Byte) : Except Fault (Nat × Channel) :=
  if c.idx.toNat < bufferSize then .ok (c.idx.toNat, stored c b) else .error .bufferIndex

/-- `ch[d].buf[lo .. lo+n-1]` (rule R6). A range past the buffer's last byte faults (log entry 7). -/
def loadRange (c : Channel) (lo n : Nat) : Except Fault (List Byte) :=
  if lo + n ≤ bufferSize then .ok (c.buf.slice lo n) else .error .bufferIndex

/-- `buf[9 .. 8 + bodyLen]`, the body (rules R78, R101, R161). -/
def loadBody (c : Channel) : Except Fault (List Byte) := loadRange c bodyStartOffset c.bodyLen.toNat

/-- What a channel's step leaves: the channel's registers and the step's events in order (rules R8, R210). -/
abbrev ChannelResult := Except Fault (Channel × List Event)

/-- A phase step that runs STORE first and goes on from the offset and the channel it leaves (rule R123). -/
def afterStore (c : Channel) (b : Byte) (k : Nat → Channel → ChannelResult) : ChannelResult :=
  match store c b with
  | .ok (p, c') => k p c'
  | .error f    => .error f

/-- The end of a step of channel `d`: its register writes and its events committed at once (rule R8). -/
def commit (s : State) (d : Dir) (r : ChannelResult) : Host.Outcome State Fault Refusal :=
  match r with
  | .ok (c, evs) => .next ((s.setCh d c).emit evs)
  | .error f     => .fault f

/-- An error-lane event over the whole frame, added when a check fails: errors only add events
(rules R107, R230, R231). -/
def errorEvent (failed : Bool) (d : Dir) (frameStart stop : Offset) (p : Payload) : List Event :=
  if failed then [stamp d frameStart stop p] else []

/-- A single-byte header step: STORE, one event over the byte, the next phase (rules R128, R130 to R132). -/
def headerStep (c : Channel) (d : Dir) (b : Byte) (s e : Offset) (p : Payload) (next : Phase) : ChannelResult :=
  afterStore c b fun _ c' => .ok ({ c' with phase := next }, [stamp d s e p])

/-- RESET's register values for both channels, and the configuration sampled (rules R30, R138). -/
def resetChannels (s : State) : State :=
  { s with am := Channel.resetValue, ma := Channel.resetValue, cfg := s.cfgIn, launched := true }

/-- The encoding at the input port (rule R70). -/
def Transaction.encoded (t : Transaction) : Encoded := .input t.hdr t.start t.stop

/-- The host's next transaction, and the state with it taken; none when the host presents no more (rule R246). -/
def fetch (s : State) : Option (Transaction × State) :=
  match s.input with
  | []        => none
  | t :: rest => some (t, { s with input := rest })

/-- Is the instruction turned away because no RESET has been presented (rules R32, R251; 93 I2)? -/
def beforeLaunch (s : State) : Instr → Bool
  | .reset _ _ _ _ => false
  | _              => !s.launched

/-- The DATA transaction that carries byte `b` to channel `d` (rule R70). -/
def dataTransaction (d : Dir) (b : Byte) (s e : Offset) : Transaction :=
  { hdr := packHeader 0b01 d b, start := s, stop := e }

end Sys2Proof.Machine
end

