-- ==== Sys2Proof/Machine/Operands.lean ====
section
/-! DEFINITION. The field extractor (rule R171), its four conversions (rules R172 to R175), and the fixed layouts
(rules R178, R179, R187, R188). -/

namespace Sys2Proof.Machine

open Sys2Proof

/-- `body[i]` of a body that has it (rule R78). -/
def bodyByte (body : List Byte) (i : Nat) : Byte := body.getD i 0

/-- `RAW`: `(b >> lsb) & ((1 << width) - 1)` (rule R172). -/
def convRaw (b : Byte) (lsb width : Nat) : Nat := (b.toNat >>> lsb) &&& ((1 <<< width) - 1)

/-- `SETPOINT_X2`: `2·((b & 0x0F) + 16) + b[4]` (rule R173). -/
def convSetpointX2 (b : Byte) : Nat := 2 * ((b &&& 0x0F).toNat + 16) + (b.getLsbD 4).toNat

/-- `TEMP_X2`: `b - 50`, signed (rule R174). -/
def convTempX2 (b : Byte) : Int := (b.toNat : Int) - 50

/-- `IP_REV4`: `body[i+3] << 24 | body[i+2] << 16 | body[i+1] << 8 | body[i]` (rules R54, R175). -/
def convIpRev4 (b0 b1 b2 b3 : Byte) : BitVec 32 := b3 ++ b2 ++ b1 ++ b0

/-- `EXTRACT(body, desc)`: none is the spec's `ABSENT`, a field that lies beyond the body (rule R171). -/
def extract (body : List Byte) (desc : FieldDesc) : Option Field :=
  let i := desc.i.toNat
  if i + convBytes desc.conv > body.length then none
  else
    let b := bodyByte body i
    match desc.conv with
    | .raw        => some (desc.fid, (convRaw b desc.lsb.toNat desc.width.toNat : Int))
    | .setpointX2 => some (desc.fid, (convSetpointX2 b : Int))
    | .tempX2     => some (desc.fid, convTempX2 b)
    | .ipRev4     => some (desc.fid,
        ((convIpRev4 b (bodyByte body (i + 1)) (bodyByte body (i + 2)) (bodyByte body (i + 3))).toNat : Int))

/-- `FIELDS(body, list)`: the extracted fields in list order, the absent ones dropped (rule R171). -/
def fieldsOf (body : List Byte) : List FieldDesc → List Field
  | [] => []
  | desc :: rest =>
    match extract body desc with
    | some f => f :: fieldsOf body rest
    | none   => fieldsOf body rest

/-- `MODE = (fid 0x00, i = 1, RAW, lsb = 5, width = 3)` (rule R178). -/
def descMode : FieldDesc := { fid := 0x00, i := 1, conv := .raw, lsb := 5, width := 3 }

/-- `SETPOINT_X2 = (fid 0x01, i = 3, SETPOINT_X2)` (rule R178). -/
def descSetpoint : FieldDesc := { fid := 0x01, i := 3, conv := .setpointX2, lsb := 0, width := 0 }

/-- The fid of `CRC_OK` (rules R84, R183). -/
def fidCrcOk : BitVec 8 := 0x02

/-- `NET_IP = (fid 0x03, i = 3, IP_REV4)` (rule R179). -/
def descNetIp : FieldDesc := { fid := 0x03, i := 3, conv := .ipRev4, lsb := 0, width := 0 }

/-- `(SWITCH_CODE, i = 0, RAW, lsb = 0, width = 8)` (rule R187). -/
def descSwitchCode : FieldDesc := { fid := 0x04, i := 0, conv := .raw, lsb := 0, width := 8 }

/-- `(RESTART_CODE, i = 0, RAW, lsb = 0, width = 8)` (rule R188). -/
def descRestartCode : FieldDesc := { fid := 0x05, i := 0, conv := .raw, lsb := 0, width := 8 }

/-- The AC layout: the fixed descriptors, then the configured ones (rules R176, R178). -/
def acLayout (cfg : Config) : List FieldDesc := [descMode, descSetpoint] ++ cfg.acExtra

/-- The network-status layout (rules R176, R179). -/
def netLayout (cfg : Config) : List FieldDesc := [descNetIp] ++ cfg.netExtra

/-- The meaning code by direction (rule R190). -/
def meaningOf (d : Dir) (inAm inMa : Meaning) : Meaning :=
  match d with
  | .am => inAm
  | .ma => inMa

end Sys2Proof.Machine
end

