-- ==== Sys2Proof/Machine/Handlers.lean ====
section
/-! DEFINITION. The ten message handlers (rules R180 to R189): each emits its events and writes no channel
register (rule R163). -/

namespace Sys2Proof.Machine

open Sys2Proof

/-- `CMD(meaning, fields)`: one CMD event over the whole frame (rule R177). -/
def cmdEvent (f : FrameArgs) (meaning : Meaning) (fields : List Field) : Event :=
  stamp f.dir f.frameStart f.stop (.cmd f.dir f.appType f.msgType meaning fields)

/-- `ERR_UNEXPECTED_DIR` when the frame's direction is the one its type is not meant for (rules R184, R231, R232). -/
def unexpectedDirEvent (f : FrameArgs) : List Event :=
  errorEvent (f.dir == .ma) f.dir f.frameStart f.stop (.errUnexpectedDir f.dir f.appType f.msgType)

/-- The events of `H_02_AC` (rule R181). -/
def eventsH02Ac (cfg : Config) (f : FrameArgs) : List Event :=
  [cmdEvent f (meaningOf f.dir .acStatus .acControl) (fieldsOf f.body (acLayout cfg))]

/-- The events of `H_03_AC` (rule R183). -/
def eventsH03Ac (cfg : Config) (f : FrameArgs) : List Event :=
  [cmdEvent f (meaningOf f.dir .acQueryResponse .acQuery)
    (if cfg.crcPresent then [(fidCrcOk, (f.crcOk.toNat : Int))] else [])]

/-- The events of `H_02` (rule R180). -/
def eventsH02 (f : FrameArgs) : List Event := [cmdEvent f (meaningOf f.dir .ctrlResponse .ctrlCommand) []]

/-- The events of `H_03` (rule R182). -/
def eventsH03 (f : FrameArgs) : List Event := [cmdEvent f (meaningOf f.dir .queryResponse .query) []]

/-- The events of `H_04` (rule R184). -/
def eventsH04 (f : FrameArgs) : List Event :=
  cmdEvent f (meaningOf f.dir .opparamReport .opparamReportUnexpected) [] :: unexpectedDirEvent f

/-- The events of `H_05` (rule R185). -/
def eventsH05 (f : FrameArgs) : List Event :=
  [cmdEvent f (meaningOf f.dir .opparamReportRespRequired .opparamResponse) []]

/-- The events of `H_63` (rule R186). -/
def eventsH63 (cfg : Config) (f : FrameArgs) : List Event :=
  match f.dir with
  | .am => [cmdEvent f .netStatus (fieldsOf f.body (netLayout cfg))]
  | .ma => [cmdEvent f .netQuery []]

/-- The events of `H_81` (rule R187). -/
def eventsH81 (f : FrameArgs) : List Event :=
  [cmdEvent f (meaningOf f.dir .modeSwitchResult .modeSwitchRequest) (fieldsOf f.body [descSwitchCode])]

/-- The events of `H_82` (rule R188). -/
def eventsH82 (f : FrameArgs) : List Event :=
  match f.dir with
  | .am => [cmdEvent f .restartResult (fieldsOf f.body [descRestartCode])]
  | .ma => [cmdEvent f .restartRequest []]

/-- The events of `H_DEFAULT` (rule R189). -/
def eventsHDefault (f : FrameArgs) : List Event :=
  [stamp f.dir f.frameStart f.stop (.unrecognized f.dir f.appType f.msgType)]

/-- `H_02_AC` (rule R181). -/
def execH02Ac (f : FrameArgs) (s : State) : Host.Outcome State Fault Refusal := .next (s.emit (eventsH02Ac s.cfg f))

/-- `H_03_AC` (rule R183). -/
def execH03Ac (f : FrameArgs) (s : State) : Host.Outcome State Fault Refusal := .next (s.emit (eventsH03Ac s.cfg f))

/-- `H_02` (rule R180). -/
def execH02 (f : FrameArgs) (s : State) : Host.Outcome State Fault Refusal := .next (s.emit (eventsH02 f))

/-- `H_03` (rule R182). -/
def execH03 (f : FrameArgs) (s : State) : Host.Outcome State Fault Refusal := .next (s.emit (eventsH03 f))

/-- `H_04` (rule R184). -/
def execH04 (f : FrameArgs) (s : State) : Host.Outcome State Fault Refusal := .next (s.emit (eventsH04 f))

/-- `H_05` (rule R185). -/
def execH05 (f : FrameArgs) (s : State) : Host.Outcome State Fault Refusal := .next (s.emit (eventsH05 f))

/-- `H_63` (rule R186). -/
def execH63 (f : FrameArgs) (s : State) : Host.Outcome State Fault Refusal := .next (s.emit (eventsH63 s.cfg f))

/-- `H_81` (rule R187). -/
def execH81 (f : FrameArgs) (s : State) : Host.Outcome State Fault Refusal := .next (s.emit (eventsH81 f))

/-- `H_82` (rule R188). -/
def execH82 (f : FrameArgs) (s : State) : Host.Outcome State Fault Refusal := .next (s.emit (eventsH82 f))

/-- `H_DEFAULT` (rule R189). -/
def execHDefault (f : FrameArgs) (s : State) : Host.Outcome State Fault Refusal := .next (s.emit (eventsHDefault f))

end Sys2Proof.Machine
end

