-- ==== Sys2Proof/Machine/Dispatcher.lean ====
section
/-! DEFINITION. The message-type dispatcher: its two lookup tables (rule R160) and DISPATCH (rule R161). -/

namespace Sys2Proof.Machine

open Sys2Proof

/-- The exact table, keyed by `(messageType, applianceType)` (rule R160). -/
def exactTable : List ((Byte × Byte) × Handler) := [((0x02, 0xAC), .h02Ac), ((0x03, 0xAC), .h03Ac)]

/-- The type table, keyed by `messageType` alone (rule R160). -/
def typeTable : List (Byte × Handler) :=
  [(0x02, .h02), (0x03, .h03), (0x04, .h04), (0x05, .h05), (0x63, .h63), (0x81, .h81), (0x82, .h82)]

/-- The handler of a frame: the exact table first, then the type table, then the default (rule R161). The
direction takes no part (rule R162). -/
def selectHandler (msgType appType : Byte) : Handler :=
  match exactTable.lookup (msgType, appType) with
  | some h => h
  | none =>
    match typeTable.lookup msgType with
    | some h => h
    | none   => .hDefault

/-- The events of a handler (rules R180 to R189). -/
def handlerEvents (cfg : Config) (h : Handler) (f : FrameArgs) : List Event :=
  match h with
  | .h02Ac    => eventsH02Ac cfg f
  | .h03Ac    => eventsH03Ac cfg f
  | .h02      => eventsH02 f
  | .h03      => eventsH03 f
  | .h04      => eventsH04 f
  | .h05      => eventsH05 f
  | .h63      => eventsH63 cfg f
  | .h81      => eventsH81 f
  | .h82      => eventsH82 f
  | .hDefault => eventsHDefault f

/-- `DISPATCH(d, e)` on the frame's operands (rule R161): the selected handler's events. -/
def dispatchEvents (cfg : Config) (f : FrameArgs) : List Event :=
  handlerEvents cfg (selectHandler f.msgType f.appType) f

/-- The operands DISPATCH reads from the channel: `buf[2]`, `buf[8]`, the body, `crcOk` and `frameStart`
(rules R161, R170). -/
def frameArgs (d : Dir) (c : Channel) (body : List Byte) (e : Offset) : FrameArgs :=
  { dir := d, appType := c.buf.read offAppType, msgType := c.buf.read offMsgType, body := body,
    crcOk := c.crcOk, frameStart := c.frameStart, stop := e }

end Sys2Proof.Machine
end

