-- ==== Sys2Proof/Machine/Flags.lean ====
section
/-! DEFINITION. The integrity units: the CRC-8 generator (rule R100) and the additive checksum (rule R104), and
their verdicts (rules R102, R106). -/

namespace Sys2Proof.Machine

open Sys2Proof

/-- `reflect8`: bit `k` moves to bit `7 - k` (rule R100). -/
def reflect8 (b : Byte) : Byte :=
  b.extractLsb' 0 1 ++ b.extractLsb' 1 1 ++ b.extractLsb' 2 1 ++ b.extractLsb' 3 1 ++
    b.extractLsb' 4 1 ++ b.extractLsb' 5 1 ++ b.extractLsb' 6 1 ++ b.extractLsb' 7 1

/-- One turn of the loop of rule R100: bit 7 out, the polynomial in when it was set. -/
def crcTurn (poly c : Byte) : Byte := if c.msb then (c <<< 1) ^^^ poly else c <<< 1

/-- `n` turns of the loop (rule R100 repeats 8 times). -/
def crcTurns (poly : Byte) : Nat → Byte → Byte
  | 0, c => c
  | n + 1, c => crcTurns poly n (crcTurn poly c)

/-- One byte into the CRC register (rule R100). -/
def crcByte (p : CrcParams) (c b : Byte) : Byte :=
  crcTurns p.poly 8 (c ^^^ (if p.refIn then reflect8 b else b))

/-- The CRC register after a byte sequence, from a given register value (rule R100). -/
def crcRegister (p : CrcParams) : Byte → List Byte → Byte
  | c, [] => c
  | c, b :: rest => crcRegister p (crcByte p c b) rest

/-- `CRC8(x)`, the general form with the parameters of `CRC8_PARAMS` (rule R100). DESIGN CHOICE (log entry 17;
unsafe): where the rule's pseudocode and its corner case for the empty sequence differ, `refOut` set and
`reflect8 init ≠ init`, this follows the pseudocode. -/
def crc8 (p : CrcParams) (x : List Byte) : Byte :=
  let c := crcRegister p p.init x
  (if p.refOut then reflect8 c else c) ^^^ p.xorOut

/-- `sum(x)`, the exact integer sum of the bytes (rule R6). -/
def byteSum : List Byte → Nat
  | [] => 0
  | b :: rest => b.toNat + byteSum rest

/-- `CHECKSUM(x) = (256 - sum(x) mod 256) mod 256` (rule R104). -/
def checksum (x : List Byte) : Byte := BitVec.ofNat 8 ((256 - byteSum x % 256) % 256)

/-- The CRC verdict, in the comparison form (rule R102). -/
def crcVerdict (computed stored : Byte) : Bool := computed == stored

/-- The checksum verdict (rule R106). -/
def cksVerdict (expected stored : Byte) : Bool := stored == expected

/-- `CHECKSUM(buf[CKS_START .. p-1])`, the expected checksum byte of offset `p` (rule R106). -/
def loadChecksum (cfg : Config) (c : Channel) (p : Nat) : Except Fault Byte :=
  match loadRange c cfg.cksStart.toNat (p - cfg.cksStart.toNat) with
  | .ok covered => .ok (checksum covered)
  | .error f    => .error f

/-- `CRC8(buf[9 .. 8 + bodyLen])` (rule R101). -/
def loadCrc (cfg : Config) (c : Channel) : Except Fault Byte :=
  match loadBody c with
  | .ok body => .ok (crc8 cfg.crc body)
  | .error f => .error f

end Sys2Proof.Machine
end

