-- ==== Sys2Proof/Machine/Phases.lean ====
section
/-! DEFINITION. The eleven phase steps of a channel (rules R126 to R136). Each takes `(d, b, s, e)` of the DATA
transaction and the state. -/

namespace Sys2Proof.Machine

open Sys2Proof

/-- `IDLE_STEP` (rule R126): the sync byte starts a frame, any other byte is discarded. -/
def idleStep (c : Channel) (d : Dir) (b : Byte) (s e : Offset) : ChannelResult :=
  if b = syncByte then
    .ok ({ c with buf := c.buf.write 0 b, idx := 1, frameStart := s, phase := .len }, [stamp d s e (.sync b)])
  else .ok (c, [])

/-- `LEN_STEP` (rule R127). -/
def lenStep (cfg : Config) (c : Channel) (d : Dir) (b : Byte) (s e : Offset) : ChannelResult :=
  afterStore c b fun _ c' =>
    .ok ({ c' with len := b, bodyLen := bodyLength cfg b, phase := .appType }, [stamp d s e (.length b)])

/-- `FIXED_STEP` (rule R129): the pair's event comes with the second byte. -/
def fixedStep (c : Channel) (d : Dir) (b : Byte) (s e : Offset) : ChannelResult :=
  afterStore c b fun p c' =>
    if p = offFixed then .ok ({ c' with fieldStart := s }, [])
    else .ok ({ c' with phase := .msgId },
      [stamp d c'.fieldStart e (.fixed (c'.buf.read offFixed) (c'.buf.read (offFixed + 1)))])

/-- `MSGTYPE_STEP` (rule R133): the body next, or the trailer when there is none. -/
def msgTypeStep (cfg : Config) (c : Channel) (d : Dir) (b : Byte) (s e : Offset) : ChannelResult :=
  afterStore c b fun _ c' =>
    .ok ({ c' with phase := if 1 ≤ c'.bodyLen.toNat then .body else afterBody cfg }, [stamp d s e (.msgType b)])

/-- `if p = 9: bodyStart <- s` (rule R134). -/
def markBodyStart (p : Nat) (c : Channel) (s : Offset) : Channel :=
  if p = bodyStartOffset then { c with bodyStart := s } else c

/-- `BODY_STEP` (rule R134): the body's event comes with its last byte. -/
def bodyStep (cfg : Config) (c : Channel) (d : Dir) (b : Byte) (s e : Offset) : ChannelResult :=
  afterStore c b fun p c' =>
    let c'' := markBodyStart p c' s
    if p = 8 + c''.bodyLen.toNat then
      match loadBody c'' with
      | .ok body => .ok ({ c'' with phase := afterBody cfg }, [stamp d c''.bodyStart e (.body body)])
      | .error f => .error f
    else .ok (c'', [])

/-- `CRC_STEP` (rule R135). -/
def crcStep (cfg : Config) (c : Channel) (d : Dir) (b : Byte) (s e : Offset) : ChannelResult :=
  afterStore c b fun _ c' =>
    match loadCrc cfg c' with
    | .ok computed =>
      let ok := crcVerdict computed b
      .ok ({ c' with crcOk := ok, phase := .cks },
        stamp d s e (.crcValue b computed ok) :: errorEvent (!ok) d c'.frameStart e (.errCrc d b computed))
    | .error f => .error f

/-- `CKS_STEP` (rule R136): the checksum's events, then DISPATCH whatever the verdicts, then the channel's reset
(rule R31). -/
def cksStep (cfg : Config) (c : Channel) (d : Dir) (b : Byte) (s e : Offset) : ChannelResult :=
  afterStore c b fun p c' =>
    match loadChecksum cfg c' p, loadBody c' with
    | .ok expected, .ok body =>
      let ok := cksVerdict expected b
      .ok (Channel.resetValue,
        (stamp d s e (.cksValue b expected ok) :: errorEvent (!ok) d c'.frameStart e (.errCks d b expected)) ++
          dispatchEvents cfg (frameArgs d c' body e))
    | .ok _, .error f => .error f
    | .error f, _     => .error f

/-- `IDLE` (rule R126). -/
def execIdle (d : Dir) (b : Byte) (start stop : Offset) (s : State) : Host.Outcome State Fault Refusal :=
  commit s d (idleStep (s.ch d) d b start stop)

/-- `LEN` (rule R127). -/
def execLen (d : Dir) (b : Byte) (start stop : Offset) (s : State) : Host.Outcome State Fault Refusal :=
  commit s d (lenStep s.cfg (s.ch d) d b start stop)

/-- `APPTYPE` (rule R128). -/
def execAppType (d : Dir) (b : Byte) (start stop : Offset) (s : State) : Host.Outcome State Fault Refusal :=
  commit s d (headerStep (s.ch d) d b start stop (.appType b) .fixed)

/-- `FIXED` (rule R129). -/
def execFixed (d : Dir) (b : Byte) (start stop : Offset) (s : State) : Host.Outcome State Fault Refusal :=
  commit s d (fixedStep (s.ch d) d b start stop)

/-- `MSGID` (rule R130). -/
def execMsgId (d : Dir) (b : Byte) (start stop : Offset) (s : State) : Host.Outcome State Fault Refusal :=
  commit s d (headerStep (s.ch d) d b start stop (.msgId b) .fwVer)

/-- `FWVER` (rule R131). -/
def execFwVer (d : Dir) (b : Byte) (start stop : Offset) (s : State) : Host.Outcome State Fault Refusal :=
  commit s d (headerStep (s.ch d) d b start stop (.fwVer b) .applVer)

/-- `APPLVER` (rule R132). -/
def execApplVer (d : Dir) (b : Byte) (start stop : Offset) (s : State) : Host.Outcome State Fault Refusal :=
  commit s d (headerStep (s.ch d) d b start stop (.applVer b) .msgType)

/-- `MSGTYPE` (rule R133). -/
def execMsgType (d : Dir) (b : Byte) (start stop : Offset) (s : State) : Host.Outcome State Fault Refusal :=
  commit s d (msgTypeStep s.cfg (s.ch d) d b start stop)

/-- `BODY` (rule R134). -/
def execBody (d : Dir) (b : Byte) (start stop : Offset) (s : State) : Host.Outcome State Fault Refusal :=
  commit s d (bodyStep s.cfg (s.ch d) d b start stop)

/-- `CRC` (rule R135), the same with `CRC_PRESENT = 0` (log entry 12). -/
def execCrc (d : Dir) (b : Byte) (start stop : Offset) (s : State) : Host.Outcome State Fault Refusal :=
  commit s d (crcStep s.cfg (s.ch d) d b start stop)

/-- `CKS` (rule R136). -/
def execCks (d : Dir) (b : Byte) (start stop : Offset) (s : State) : Host.Outcome State Fault Refusal :=
  commit s d (cksStep s.cfg (s.ch d) d b start stop)

end Sys2Proof.Machine
end

