-- ==== Sys2Proof/Machine/Inputs.lean ====
section
/-! DEFINITION. The three input operations (rules R120, R121, R122, R138). -/

namespace Sys2Proof.Machine

open Sys2Proof

/-- `OTHER`: both channels unchanged, no event, its operands ignored (rule R122). -/
def execOther (_d : Dir) (_b : Byte) (_start _stop : Offset) (s : State) : Host.Outcome State Fault Refusal :=
  .next s

/-- `DATA(d, b, s, e)`: the phase step that channel `d`'s phase register selects (rule R121). -/
def execData (d : Dir) (b : Byte) (start stop : Offset) (s : State) : Host.Outcome State Fault Refusal :=
  match (s.ch d).phase with
  | .idle    => execIdle d b start stop s
  | .len     => execLen d b start stop s
  | .appType => execAppType d b start stop s
  | .fixed   => execFixed d b start stop s
  | .msgId   => execMsgId d b start stop s
  | .fwVer   => execFwVer d b start stop s
  | .applVer => execApplVer d b start stop s
  | .msgType => execMsgType d b start stop s
  | .body    => execBody d b start stop s
  | .crc     => execCrc d b start stop s
  | .cks     => execCks d b start stop s

/-- `RESET`: both channels to their reset values, the configuration sampled, no event (rule R138). An illegal
configuration is refused (rules R27, R176; log entry 8). -/
def execReset (_d : Dir) (_b : Byte) (_start _stop : Offset) (s : State) : Host.Outcome State Fault Refusal :=
  if configLegal s.cfgIn then .next (resetChannels s) else .refused .illegalConfiguration

end Sys2Proof.Machine
end

