-- ==== Sys2Proof/Machine/Dispatch.lean ====
section
/-! DEFINITION. The meaning of every instruction, one arm per row of `opcode_table.json`. -/

namespace Sys2Proof.Machine

open Sys2Proof

/-- One instruction: its row's meaning, whatever phase or key the channels hold (log entry 12). -/
def exec (i : Instr) (s : State) : Host.Outcome State Fault Refusal :=
  match i with
  | .other d b start stop   => Sys2Proof.Machine.execOther d b start stop s
  | .data d b start stop    => Sys2Proof.Machine.execData d b start stop s
  | .reset d b start stop   => Sys2Proof.Machine.execReset d b start stop s
  | .idle d b start stop    => Sys2Proof.Machine.execIdle d b start stop s
  | .len d b start stop     => Sys2Proof.Machine.execLen d b start stop s
  | .appType d b start stop => Sys2Proof.Machine.execAppType d b start stop s
  | .fixed d b start stop   => Sys2Proof.Machine.execFixed d b start stop s
  | .msgId d b start stop   => Sys2Proof.Machine.execMsgId d b start stop s
  | .fwVer d b start stop   => Sys2Proof.Machine.execFwVer d b start stop s
  | .applVer d b start stop => Sys2Proof.Machine.execApplVer d b start stop s
  | .msgType d b start stop => Sys2Proof.Machine.execMsgType d b start stop s
  | .body d b start stop    => Sys2Proof.Machine.execBody d b start stop s
  | .crc d b start stop     => Sys2Proof.Machine.execCrc d b start stop s
  | .cks d b start stop     => Sys2Proof.Machine.execCks d b start stop s
  | .h02Ac f                => Sys2Proof.Machine.execH02Ac f s
  | .h03Ac f                => Sys2Proof.Machine.execH03Ac f s
  | .h02 f                  => Sys2Proof.Machine.execH02 f s
  | .h03 f                  => Sys2Proof.Machine.execH03 f s
  | .h04 f                  => Sys2Proof.Machine.execH04 f s
  | .h05 f                  => Sys2Proof.Machine.execH05 f s
  | .h63 f                  => Sys2Proof.Machine.execH63 f s
  | .h81 f                  => Sys2Proof.Machine.execH81 f s
  | .h82 f                  => Sys2Proof.Machine.execH82 f s
  | .hDefault f             => Sys2Proof.Machine.execHDefault f s

end Sys2Proof.Machine
end

