-- ==== Sys2Proof/Machine/Probe.lean ====
section
/-! DEFINITION. The channel states that the host's probe places a phase step or a handler in. -/

namespace Sys2Proof.Machine

open Sys2Proof

/-- A channel in the middle of a frame: the bytes received so far, the length byte and the phase (rule R24). -/
def midFrame (cfg : Config) (phase : Phase) (idx : Nat) (len appType msgType : Byte) : Channel :=
  { Channel.resetValue with
    phase := phase
    buf := (((Memory.write [] 0 syncByte).write 1 len).write offAppType appType).write offMsgType msgType
    idx := BitVec.ofNat 9 idx
    len := len
    bodyLen := bodyLength cfg len }

/-- The length byte of a frame with a one-byte body (rule R76). -/
def oneByteLength (cfg : Config) : Byte := BitVec.ofNat 8 (9 + trailerLen cfg)

/-- A channel that waits in a phase for its next byte, at the index of rule R24, all other bytes of its frame 0. -/
def channelInPhase (cfg : Config) (phase : Phase) : Channel :=
  match phase with
  | .idle    => Channel.resetValue
  | .len     => { Channel.resetValue with phase := .len, buf := Memory.write [] 0 syncByte, idx := 1 }
  | .appType => midFrame cfg .appType 2 0 0 0
  | .fixed   => midFrame cfg .fixed 3 0 0 0
  | .msgId   => midFrame cfg .msgId 5 0 0 0
  | .fwVer   => midFrame cfg .fwVer 6 0 0 0
  | .applVer => midFrame cfg .applVer 7 0 0 0
  | .msgType => midFrame cfg .msgType 8 0 0 0
  | .body    => midFrame cfg .body 9 (oneByteLength cfg) 0 0
  | .crc     => midFrame cfg .crc 9 0 0 0
  | .cks     => midFrame cfg .cks (8 + trailerLen cfg) 0 0 0

/-- A channel that waits for the checksum byte of a frame of a given key with an empty body, so that its next byte
dispatches that key (rules R79, R136, R161). -/
def channelAtDispatch (cfg : Config) (key : Key) : Channel :=
  midFrame cfg .cks (8 + trailerLen cfg) 0 key.appType key.msgType

end Sys2Proof.Machine
end

