-- ==== Sys2Proof/Machine/Step.lean ====
section
/-! DEFINITION. One step: one input transaction (rules R8, R120). -/

namespace Sys2Proof.Machine

open Sys2Proof

/-- One step of MSFR: it takes the host's next transaction, decodes its header and runs the instruction. With no
transaction presented the machine holds its state (rules R140, R244). -/
def step (s : State) : Host.Outcome State Fault Refusal :=
  match fetch s with
  | none => .next s
  | some (t, s') =>
    match decode t.encoded with
    | .error reason => .refused (.reservedEncoding reason)
    | .ok i => if beforeLaunch s i then .refused .beforeFirstReset else exec i s'

/-- The state in which the next step runs a table word (log entries 10, 11): an input header is put at the head of
the input; a phase code or a dispatch key also puts channel 0 where the DATA transaction at the head of the input
runs that phase step or handler. -/
def State.withFetchWord (s : State) (nbits w : Nat) : State :=
  match tableWord nbits w with
  | some (.input hdr start stop) =>
    { s with input := { hdr := hdr, start := start, stop := stop } :: s.input, launched := true }
  | some (.phase code hdr start stop) =>
    match decodePhase code with
    | some p => { s with
        am := channelInPhase s.cfg p
        input := { hdr := hdr, start := start, stop := stop } :: s.input
        launched := true }
    | none => s
  | some (.dispatch key _ _ _ start stop) => { s with
      am := channelAtDispatch s.cfg key
      input := dataTransaction .am probeByte start stop :: s.input
      launched := true }
  | none => s

end Sys2Proof.Machine
end

