-- ==== Sys2Proof/Safety.lean ====
section
/-! DEFINITION. The vocabulary of the claims: the invariant of a safe run (rules R24, R142, R27), what a step leaves
unchanged, the shape of a delivered event (rules R88, R89, R92), a channel's events (rule R139), legal
configurations as the spec words them (rules R27, R83, R176), runs, and the events of a whole frame as the layout
and the span table give them (rules R74, R210, R215). -/

namespace Sys2Proof.Machine

open Sys2Proof

/-! ### The invariant -/

/-- The relation between `phase` and `idx` (rule R24). -/
def Channel.Positioned (cfg : Config) (c : Channel) : Prop :=
  match c.phase with
  | .idle    => c.idx.toNat = 0
  | .len     => c.idx.toNat = 1
  | .appType => c.idx.toNat = 2
  | .fixed   => c.idx.toNat = 3 ∨ c.idx.toNat = 4
  | .msgId   => c.idx.toNat = 5
  | .fwVer   => c.idx.toNat = 6
  | .applVer => c.idx.toNat = 7
  | .msgType => c.idx.toNat = 8
  | .body    => 1 ≤ c.bodyLen.toNat ∧ 9 ≤ c.idx.toNat ∧ c.idx.toNat ≤ 8 + c.bodyLen.toNat
  | .crc     => cfg.crcPresent = true ∧ c.idx.toNat = 9 + c.bodyLen.toNat
  | .cks     => c.idx.toNat = 9 + c.bodyLen.toNat + (trailerLen cfg - 1)

/-- What holds of each channel between steps. -/
structure Channel.Inv (cfg : Config) (c : Channel) : Prop where
  /-- Rule R24. -/
  positioned : c.Positioned cfg
  /-- The buffer keeps its canonical form. -/
  canonical : c.buf.wf = true
  /-- Bytes at or above `idx` belong to no frame and are cleared (rules R25, R30). -/
  below : ∀ cell ∈ c.buf, cell.1 < c.idx.toNat
  /-- IDLE is entered only through a reset, so an IDLE channel holds the reset values (rules R31, R126). -/
  idleCleared : c.phase = .idle → c = Channel.resetValue
  /-- A frame in progress began with the sync byte (rule R51). -/
  syncStored : c.phase ≠ .idle → c.buf.read 0 = syncByte
  /-- From the length byte on, `len` is `buf[1]` and `bodyLen` is the value computed from it (rule R124). -/
  lengthStored : c.phase ≠ .idle → c.phase ≠ .len → c.buf.read 1 = c.len ∧ c.bodyLen = bodyLength cfg c.len
  /-- No length byte declares more body than the buffer holds (rules R5, R124, R142). -/
  bodyBound : c.bodyLen.toNat + 8 + trailerLen cfg ≤ 255
  /-- `crcOk` is set by the CRC step and cleared by the next step (rule R26). -/
  crcOkAtCks : c.crcOk = true → c.phase = .cks

/-- What holds of the machine between steps. -/
structure State.Inv (s : State) : Prop where
  legal : configLegal s.cfg = true
  launched : s.launched = true
  channel : ∀ d, (s.ch d).Inv s.cfg

/-! ### Legal configurations, as the spec words them -/

/-- The ranges of a field descriptor (rule R83). -/
def DescInRange (desc : FieldDesc) : Prop :=
  (desc.conv = .ipRev4 → desc.i.toNat ≤ 241) ∧ (desc.conv ≠ .ipRev4 → desc.i.toNat ≤ 244) ∧
  (desc.conv = .raw → 1 ≤ desc.width.toNat ∧ desc.width.toNat ≤ 8 ∧ desc.lsb.toNat + desc.width.toNat ≤ 8) ∧
  (desc.conv ≠ .raw → desc.lsb.toNat = 0 ∧ desc.width.toNat = 0)

/-- An extras list: at most 32 descriptors in range, fids of its own group, each fid at most once (rules R28,
R83, R176). -/
def ExtrasInRange (lo hi : Nat) (extras : List FieldDesc) : Prop :=
  extras.length ≤ 32 ∧ (∀ desc ∈ extras, DescInRange desc ∧ lo ≤ desc.fid.toNat ∧ desc.fid.toNat ≤ hi) ∧
  (extras.map FieldDesc.fid).Nodup

/-- The configurations a model accepts (rules R27, R176; 93 I3, I4). -/
def ConfigInRange (cfg : Config) : Prop :=
  (cfg.cksStart.toNat = 1 ∨ cfg.cksStart.toNat = 2) ∧ ExtrasInRange 0x10 0x18 cfg.acExtra ∧
  ExtrasInRange 0x20 0x25 cfg.netExtra

/-! ### What a step leaves -/

/-- `t` is `s` but for channel `d` and for `evs` appended to the output. -/
structure OnlyChannel (d : Dir) (s t : State) (evs : List Event) : Prop where
  other    : t.ch d.other = s.ch d.other
  cfg      : t.cfg = s.cfg
  cfgIn    : t.cfgIn = s.cfgIn
  input    : t.input = s.input
  output   : t.output = s.output ++ evs
  launched : t.launched = s.launched

/-- `t` is `s` but for `evs` appended to the output: no register, no buffer byte and no port other than the output
is changed. -/
def OnlyOutput (s t : State) (evs : List Event) : Prop := t = { s with output := s.output ++ evs }

/-- The one byte a STORE writes: `buf[idx]` is `b`, every other byte as before, `idx` one up (rule R123). -/
structure Stored (c c' : Channel) (b : Byte) : Prop where
  byte : c'.buf.read c.idx.toNat = b
  rest : ∀ a, a ≠ c.idx.toNat → c'.buf.read a = c.buf.read a
  idx  : c'.idx.toNat = c.idx.toNat + 1

/-- The registers that the single-byte header steps leave alone: all but `phase`, `buf` and `idx`. -/
structure SameFrameRegisters (c c' : Channel) : Prop where
  len        : c'.len = c.len
  bodyLen    : c'.bodyLen = c.bodyLen
  frameStart : c'.frameStart = c.frameStart
  fieldStart : c'.fieldStart = c.fieldStart
  bodyStart  : c'.bodyStart = c.bodyStart
  crcOk      : c'.crcOk = c.crcOk

/-- Two channels that a run cannot tell apart: equal registers, and equal buffer bytes below `idx` (rule R25). -/
structure SameVisible (c c' : Channel) : Prop where
  phase : c'.phase = c.phase
  idx   : c'.idx = c.idx
  regs  : SameFrameRegisters c c'
  bytes : ∀ a, a < c.idx.toNat → c'.buf.read a = c.buf.read a

/-! ### Events -/

/-- The direction a payload carries, none for the kinds that carry no direction (rule R89). -/
def Payload.dir? : Payload → Option Dir
  | .cmd d _ _ _ _          => some d
  | .unrecognized d _ _     => some d
  | .errCrc d _ _           => some d
  | .errCks d _ _           => some d
  | .errUnexpectedDir d _ _ => some d
  | _                       => none

/-- An event of channel `d`: on lanes `5d .. 5d+4`, or on the error lane with `dir = d` (rules R139, R216). -/
def Event.ofChannel (d : Dir) (ev : Event) : Bool :=
  (decide (5 * d.toNat ≤ ev.lane.toNat) && decide (ev.lane.toNat ≤ 5 * d.toNat + 4)) ||
    (ev.lane == errorLane && ev.payload.dir? == some d)

/-- The field ids of rule R84. -/
def knownFids : List (BitVec 8) :=
  [0x00, 0x01, 0x02, 0x03, 0x04, 0x05, 0x10, 0x11, 0x12, 0x13, 0x14, 0x15, 0x16, 0x17, 0x18,
   0x20, 0x21, 0x22, 0x23, 0x24, 0x25]

/-- The fields of a payload. -/
def Payload.fields : Payload → List Field
  | .cmd _ _ _ _ fields => fields
  | _                   => []

/-- The range of a signed 33-bit integer (rule R89). -/
def FitsSigned33 (v : Int) : Prop := -4294967296 ≤ v ∧ v < 4294967296

/-- The shape of every delivered event of channel `d` (rules R88, R89, R92, R212): the kind is its payload's, the
lane is the kind's, a direction in the payload is the channel's, every fid is a known one and every value fits. -/
structure Event.Shaped (d : Dir) (ev : Event) : Prop where
  kind   : ev.kind = ev.payload.kind
  lane   : ev.lane.toNat = (match ev.kind with
    | .sync => 5 * d.toNat
    | .length | .appType | .fixed | .msgId | .fwVer | .applVer | .msgType => 5 * d.toNat + 1
    | .body => 5 * d.toNat + 2
    | .crcValue | .cksValue => 5 * d.toNat + 3
    | .cmd | .unrecognized => 5 * d.toNat + 4
    | .errCrc | .errCks | .errUnexpectedDir => 10)
  dir    : ∀ d', ev.payload.dir? = some d' → d' = d
  fields : ∀ f ∈ ev.payload.fields, f.1 ∈ knownFids ∧ FitsSigned33 f.2

/-! ### The two units, in the forms the spec also gives -/

/-- The bit-reversed loop of rule R100 for one byte's eight turns. -/
def reflectedTurns : Nat → Byte → Byte
  | 0, c => c
  | n + 1, c => reflectedTurns n (if c.getLsbD 0 then (c >>> 1) ^^^ 0x8C else c >>> 1)

/-- `CRC8(x)` as the bit-reversed loop of rule R100, for this hardware's parameters. -/
def reflectedCrc8 (x : List Byte) : Byte := x.foldl (fun c b => reflectedTurns 8 (c ^^^ b)) 0x00

/-! ### Runs -/

/-- `n` steps, stopping at the first fault or refusal. -/
def run (n : Nat) (s : State) : Host.Outcome State Fault Refusal := Host.Core.run Sys2Proof.core n s

/-- The direction a transaction's header carries. -/
def Transaction.dir (t : Transaction) : Dir := t.hdr.dir

/-- A DATA transaction (rule R71). -/
def Transaction.isData (t : Transaction) : Bool := t.hdr.op == 0b01#2

/-- An OTHER transaction (rule R71). -/
def Transaction.isOther (t : Transaction) : Bool := t.hdr.op == 0b00#2

/-- A RESET transaction (rule R71). -/
def Transaction.isReset (t : Transaction) : Bool := t.hdr.op == 0b10#2

/-- A RESET transaction with `dir`, `byte` and offsets 0. -/
def resetTransaction : Transaction := { hdr := packHeader 0b10 .am 0, start := 0, stop := 0 }

/-! ### A whole frame -/

/-- A byte of the wire with its offsets. -/
structure WireByte where
  byte  : Byte
  start : Offset
  stop  : Offset
deriving DecidableEq, Repr

/-- The wire byte as the DATA transaction of channel `d`. -/
def WireByte.transaction (d : Dir) (w : WireByte) : Transaction := dataTransaction d w.byte w.start w.stop

/-- The byte at a frame offset. -/
def wireAt (xs : List WireByte) (k : Nat) : WireByte := xs.getD k ⟨0, 0, 0⟩

/-- The bytes of frame offsets `lo .. lo+n-1`. -/
def wireRange (xs : List WireByte) (lo n : Nat) : List Byte := ((xs.drop lo).take n).map WireByte.byte

/-- An event over the byte at one frame offset. -/
def ownByte (d : Dir) (xs : List WireByte) (k : Nat) (p : Payload) : Event :=
  stamp d (wireAt xs k).start (wireAt xs k).stop p

/-- The header's events, offsets 0 to 8 (rules R74, R210, R215). -/
def headerEvents (d : Dir) (xs : List WireByte) : List Event :=
  [ownByte d xs 0 (.sync (wireAt xs 0).byte), ownByte d xs 1 (.length (wireAt xs 1).byte),
   ownByte d xs 2 (.appType (wireAt xs 2).byte),
   stamp d (wireAt xs 3).start (wireAt xs 4).stop (.fixed (wireAt xs 3).byte (wireAt xs 4).byte),
   ownByte d xs 5 (.msgId (wireAt xs 5).byte), ownByte d xs 6 (.fwVer (wireAt xs 6).byte),
   ownByte d xs 7 (.applVer (wireAt xs 7).byte), ownByte d xs 8 (.msgType (wireAt xs 8).byte)]

/-- The body's event, none for an empty body (rules R134, R210). -/
def bodyEvents (d : Dir) (xs : List WireByte) (bodyLen : Nat) : List Event :=
  if bodyLen = 0 then []
  else [stamp d (wireAt xs 9).start (wireAt xs (8 + bodyLen)).stop (.body (wireRange xs 9 bodyLen))]

/-- The CRC verdict of a frame (rule R102); 0 when the frame has no CRC byte (rule R30). -/
def frameCrcOk (cfg : Config) (xs : List WireByte) (bodyLen : Nat) : Bool :=
  cfg.crcPresent && (crc8 cfg.crc (wireRange xs 9 bodyLen) == (wireAt xs (9 + bodyLen)).byte)

/-- The CRC byte's events (rules R135, R210). -/
def crcEvents (cfg : Config) (d : Dir) (xs : List WireByte) (bodyLen : Nat) : List Event :=
  if cfg.crcPresent then
    let stored := (wireAt xs (9 + bodyLen)).byte
    let computed := crc8 cfg.crc (wireRange xs 9 bodyLen)
    [ownByte d xs (9 + bodyLen) (.crcValue stored computed (computed == stored))] ++
      (if computed = stored then []
       else [stamp d (wireAt xs 0).start (wireAt xs (9 + bodyLen)).stop (.errCrc d stored computed)])
  else []

/-- The checksum byte's own events (rules R106, R136, R210), `p` being its offset. -/
def cksEvents (cfg : Config) (d : Dir) (xs : List WireByte) (p : Nat) : List Event :=
  let stored := (wireAt xs p).byte
  let expected := checksum (wireRange xs cfg.cksStart.toNat (p - cfg.cksStart.toNat))
  [ownByte d xs p (.cksValue stored expected (stored == expected))] ++
    (if stored = expected then []
     else [stamp d (wireAt xs 0).start (wireAt xs p).stop (.errCks d stored expected)])

/-- The operands of the frame's handler (rule R170). -/
def frameOperands (cfg : Config) (d : Dir) (xs : List WireByte) (bodyLen p : Nat) : FrameArgs :=
  { dir := d, appType := (wireAt xs 2).byte, msgType := (wireAt xs 8).byte, body := wireRange xs 9 bodyLen,
    crcOk := frameCrcOk cfg xs bodyLen, frameStart := (wireAt xs 0).start, stop := (wireAt xs p).stop }

/-- The body length a frame's length byte declares (rule R124). -/
def declaredBody (cfg : Config) (xs : List WireByte) : Nat := (wireAt xs 1).byte.toNat - 8 - trailerLen cfg

/-- All the events of a complete frame, in order (rules R210, R211, R215). -/
def frameEvents (cfg : Config) (d : Dir) (xs : List WireByte) : List Event :=
  let bodyLen := declaredBody cfg xs
  let p := 8 + bodyLen + trailerLen cfg
  headerEvents d xs ++ bodyEvents d xs bodyLen ++ crcEvents cfg d xs bodyLen ++ cksEvents cfg d xs p ++
    dispatchEvents cfg (frameOperands cfg d xs bodyLen p)

end Sys2Proof.Machine
end

