-- ==== Sys2Proof/Certificates/Slice0/Obligations.lean ====
section
/-! DEFINITION. The statements for the provers, from the numbered rules of `spec/`. In every statement `d`, `b`,
`a` and `e` are the direction, the byte and the byte's `start` and `end` offsets of a transaction. -/

open Sys2Proof Sys2Proof.Machine

/-! ### Encodings -/

/-- Decoding the encoding of a well-formed instruction gives it back, for every row of the table and every operand
(rules R70, R79, R90). -/
def Obligations.DecodeEncodeRoundTrip : Prop :=
  ∀ i : Instr, i.wf = true → decode (encode i) = .ok i

/-- Whatever decodes is well-formed and encodes back to the same word: no encoding falls through to a neighbour
(rules R79, R90, R92). -/
def Obligations.DecodedEncodesBack : Prop :=
  ∀ (w : Encoded) (i : Instr), decode w = .ok i → i.wf = true ∧ encode i = w

/-- `hdr[10:9]` selects the operation, `hdr[8]` the direction, `hdr[7:0]` the byte, read off the header as a number;
`op = 11` decodes to nothing (rules R70, R71, R92). -/
def Obligations.HeaderFieldsSelectOperation : Prop :=
  ∀ (hdr : Header) (a e : Offset),
    let d : Dir := if hdr.toNat / 256 % 2 = 0 then .am else .ma
    let b : Byte := BitVec.ofNat 8 (hdr.toNat % 256)
    decode (.input hdr a e) =
      if hdr.toNat / 512 = 0 then .ok (.other d b a e)
      else if hdr.toNat / 512 = 1 then .ok (.data d b a e)
      else if hdr.toNat / 512 = 2 then .ok (.reset d b a e)
      else .error .reservedOp

/-- Words written out from the table's encodings decode to the instructions they stand for (95_test_vectors.md 2.1
and 2.7, rules R71, R80, R90, R91). -/
def Obligations.WrittenWordsDecode : Prop :=
  decode (.input 0b01010101010 7 8) = .ok (.data .am 0xAA 7 8) ∧
  decode (.input 0b01111111111 7 8) = .ok (.data .ma 0xFF 7 8) ∧
  decode (.input 0b00101010101 7 8) = .ok (.other .ma 0x55 7 8) ∧
  decode (.input 0b10111111111 7 8) = .ok (.reset .ma 0xFF 7 8) ∧
  decode (.input 0b11000000000 7 8) = .error .reservedOp ∧
  decode (.phase 0b0001 0b01100100010 7 8) = .ok (.len .ma 0x22 7 8) ∧
  decode (.phase 0b1010 0b01011100001 7 8) = .ok (.cks .am 0xE1 7 8) ∧
  decode (.phase 0b1011 0b01000000000 7 8) = .error .reservedPhase ∧
  decode (.dispatch 0x02AC .ma [0x40] true 7 8) = .ok (.h02Ac ⟨.ma, 0xAC, 0x02, [0x40], true, 7, 8⟩) ∧
  decode (.dispatch 0x02AD .ma [0x40] true 7 8) = .ok (.h02 ⟨.ma, 0xAD, 0x02, [0x40], true, 7, 8⟩) ∧
  decode (.dispatch 0xAC02 .am [] false 7 8) = .ok (.hDefault ⟨.am, 0x02, 0xAC, [], false, 7, 8⟩)

/-- For every key, the handler decoded is that of a row that matches, `(key & mask) = pattern`, and that has every
mask bit of every other matching row and more: the row with more mask bits wins (rules R79, R80). -/
def Obligations.MoreMaskBitsWin : Prop :=
  ∀ key : Key, ∃ r ∈ dispatchRows, r.handler = decodeKey key ∧ key &&& r.mask = r.pattern ∧
    ∀ r' ∈ dispatchRows, key &&& r'.mask = r'.pattern → r' = r ∨ (r'.mask &&& r.mask = r'.mask ∧ r'.mask ≠ r.mask)

/-- The two lookup tables select for every message type and appliance type the handler that the key rows select;
the key is `256 * msgType + appType` (rules R79, R160, R161). -/
def Obligations.TablesAgreeWithKeyRows : Prop :=
  ∀ m t : Byte, (packKey m t).toNat = 256 * m.toNat + t.toNat ∧ selectHandler m t = decodeKey (packKey m t)

/-- The handler of every message type and appliance type: the exact rows for `0xAC` under types `0x02` and `0x03`,
the type rows otherwise, the default for every type without a row (rules R80, R81, R160, R161). -/
def Obligations.SelectedHandlerOfEveryType : Prop :=
  ∀ m t : Byte,
    (m = 0x02 → selectHandler m t = if t = 0xAC then .h02Ac else .h02) ∧
    (m = 0x03 → selectHandler m t = if t = 0xAC then .h03Ac else .h03) ∧
    (m = 0x04 → selectHandler m t = .h04) ∧ (m = 0x05 → selectHandler m t = .h05) ∧
    (m = 0x63 → selectHandler m t = .h63) ∧ (m = 0x81 → selectHandler m t = .h81) ∧
    (m = 0x82 → selectHandler m t = .h82) ∧
    (m ≠ 0x02 → m ≠ 0x03 → m ≠ 0x04 → m ≠ 0x05 → m ≠ 0x63 → m ≠ 0x81 → m ≠ 0x82 → selectHandler m t = .hDefault)

/-! ### One step -/

/-- A step whose next transaction decodes to an instruction runs it on the state with the transaction taken (rules
R8, R120); before the first RESET this is so of RESET alone (log entry 6). -/
def Obligations.StepRunsDecodedInstruction : Prop :=
  ∀ (s : State) (t : Transaction) (rest : List Transaction) (i : Instr), s.input = t :: rest →
    decode (.input t.hdr t.start t.stop) = .ok i → (s.launched = true ∨ t.isReset = true) →
    step s = exec i { s with input := rest }

/-- With no transaction presented the machine holds its whole state: there is no timeout (rules R140, R244). -/
def Obligations.StalledMachineHoldsState : Prop :=
  ∀ s : State, s.input = [] → step s = .next s

/-- A transaction with `op = 11` is refused whatever the state (rules R71, R92, R245; 93 I1), and before the first
RESET a DATA or OTHER transaction is refused (rule R32; 93 I2; log entry 6). -/
def Obligations.InputsWithoutMeaningRefused : Prop :=
  ∀ (s : State) (t : Transaction) (rest : List Transaction), s.input = t :: rest →
    (t.hdr.toNat / 512 = 3 → step s = .refused (.reservedEncoding .reservedOp)) ∧
    (t.hdr.toNat / 512 < 2 → s.launched = false → step s = .refused .beforeFirstReset)

/-- `OTHER` leaves both channels unchanged and emits no event, in every phase and whatever its fields (rule R122). -/
def Obligations.OtherChangesNothing : Prop :=
  ∀ (d : Dir) (b : Byte) (a e : Offset) (s : State), exec (.other d b a e) s = .next s

/-- The state after reset: both channels at the values of rule R30, the tied configuration of rule R27, an empty
output (rule R251). That `input` is empty and `launched` set is the model's own (log entries 3 and 6). -/
def Obligations.ResetStateValues : Prop :=
  (∀ d, (State.reset.ch d).phase = .idle ∧ (State.reset.ch d).idx = 0 ∧
    (∀ a, (State.reset.ch d).buf.read a = 0x00) ∧ (State.reset.ch d).len = 0 ∧ (State.reset.ch d).bodyLen = 0 ∧
    (State.reset.ch d).frameStart = 0 ∧ (State.reset.ch d).fieldStart = 0 ∧ (State.reset.ch d).bodyStart = 0 ∧
    (State.reset.ch d).crcOk = false) ∧
  State.reset.cfg = ⟨true, 1, ⟨0x31, 0x00, true, true, 0x00⟩, [], []⟩ ∧
  State.reset.output = []

/-- `RESET` with a legal configuration presented: both channels at the values of rule R30, the configuration
sampled, no event, no other change (rule R138). -/
def Obligations.ResetOperation : Prop :=
  ∀ (d : Dir) (b : Byte) (a e : Offset) (s : State), ConfigInRange s.cfgIn →
    ∃ t, exec (.reset d b a e) s = .next t ∧
      (∀ d', (t.ch d').phase = .idle ∧ (t.ch d').idx = 0 ∧ (∀ x, (t.ch d').buf.read x = 0x00) ∧
        (t.ch d').len = 0 ∧ (t.ch d').bodyLen = 0 ∧ (t.ch d').frameStart = 0 ∧ (t.ch d').fieldStart = 0 ∧
        (t.ch d').bodyStart = 0 ∧ (t.ch d').crcOk = false) ∧
      t.cfg = s.cfgIn ∧ t.cfgIn = s.cfgIn ∧ t.input = s.input ∧ t.output = s.output

/-- `RESET` refuses exactly the configurations outside the legal ranges (rules R27, R83, R176, R245; 93 I3, I4). -/
def Obligations.ResetRefusesIllegalConfigurations : Prop :=
  ∀ (d : Dir) (b : Byte) (a e : Offset) (s : State),
    exec (.reset d b a e) s = .refused .illegalConfiguration ↔ ¬ ConfigInRange s.cfgIn

/-! ### Phase steps -/

/-- `DATA` runs the phase step that its channel's phase register selects (rule R121). -/
def Obligations.DataRunsSelectedPhase : Prop :=
  ∀ (d : Dir) (b : Byte) (a e : Offset) (s : State),
    exec (.data d b a e) s = exec ((s.ch d).phase.instr d b a e) s

/-- `DATA` reads and writes no register of the other channel: with the other channel replaced it leaves the same
registers and gives the same events, and the other channel is left as it is (rules R2, R121). -/
def Obligations.DataIgnoresOtherChannel : Prop :=
  ∀ (d : Dir) (b : Byte) (a e : Offset) (s t : State) (c : Channel), exec (.data d b a e) s = .next t →
    t.ch d.other = s.ch d.other ∧ exec (.data d b a e) (s.setCh d.other c) = .next (t.setCh d.other c)

/-- `IDLE_STEP`: the sync byte becomes offset 0 of a new frame and gives SYNC; any other byte is discarded with no
event and no change (rule R126). -/
def Obligations.IdleStep : Prop :=
  ∀ (d : Dir) (b : Byte) (a e : Offset) (s : State), (s.ch d).buf.wf = true →
    (b ≠ 0xAA → exec (.idle d b a e) s = .next s) ∧
    (b = 0xAA → ∃ t, exec (.idle d b a e) s = .next t ∧
      OnlyChannel d s t [⟨a, e, BitVec.ofNat 4 (5 * d.toNat), .sync, .sync 0xAA⟩] ∧
      (t.ch d).buf.read 0 = 0xAA ∧ (∀ x, x ≠ 0 → (t.ch d).buf.read x = (s.ch d).buf.read x) ∧
      (t.ch d).idx.toNat = 1 ∧ (t.ch d).frameStart = a ∧ (t.ch d).phase = .len ∧
      (t.ch d).len = (s.ch d).len ∧ (t.ch d).bodyLen = (s.ch d).bodyLen ∧
      (t.ch d).fieldStart = (s.ch d).fieldStart ∧ (t.ch d).bodyStart = (s.ch d).bodyStart ∧
      (t.ch d).crcOk = (s.ch d).crcOk)

/-- `LEN_STEP`: `len` is the byte, `bodyLen` is `max(0, len - 8 - T)` with `T` 2 when a CRC byte is present and 1
when not, LENGTH is emitted, the phase is APPTYPE (rules R124, R127). -/
def Obligations.LenStep : Prop :=
  ∀ (d : Dir) (b : Byte) (a e : Offset) (s : State), (s.ch d).buf.wf = true → (s.ch d).idx.toNat ≤ 255 →
    ∃ t, exec (.len d b a e) s = .next t ∧
      OnlyChannel d s t [⟨a, e, BitVec.ofNat 4 (5 * d.toNat + 1), .length, .length b⟩] ∧
      Stored (s.ch d) (t.ch d) b ∧ (t.ch d).len = b ∧
      ((t.ch d).bodyLen.toNat : Int) = max 0 ((b.toNat : Int) - 8 - (if s.cfg.crcPresent then 2 else 1)) ∧
      (t.ch d).phase = .appType ∧ (t.ch d).frameStart = (s.ch d).frameStart ∧
      (t.ch d).fieldStart = (s.ch d).fieldStart ∧ (t.ch d).bodyStart = (s.ch d).bodyStart ∧
      (t.ch d).crcOk = (s.ch d).crcOk

/-- `APPTYPE_STEP` (rule R128). -/
def Obligations.AppTypeStep : Prop :=
  ∀ (d : Dir) (b : Byte) (a e : Offset) (s : State), (s.ch d).buf.wf = true → (s.ch d).idx.toNat ≤ 255 →
    ∃ t, exec (.appType d b a e) s = .next t ∧
      OnlyChannel d s t [⟨a, e, BitVec.ofNat 4 (5 * d.toNat + 1), .appType, .appType b⟩] ∧
      Stored (s.ch d) (t.ch d) b ∧ SameFrameRegisters (s.ch d) (t.ch d) ∧ (t.ch d).phase = .fixed

/-- `FIXED_STEP`: at offset 3 only `fieldStart` is noted; otherwise one FIXED event for the pair, spanning both
bytes (rule R129). -/
def Obligations.FixedStep : Prop :=
  ∀ (d : Dir) (b : Byte) (a e : Offset) (s : State), (s.ch d).buf.wf = true → (s.ch d).idx.toNat ≤ 255 →
    ∃ t, exec (.fixed d b a e) s = .next t ∧ Stored (s.ch d) (t.ch d) b ∧
      (t.ch d).len = (s.ch d).len ∧ (t.ch d).bodyLen = (s.ch d).bodyLen ∧
      (t.ch d).frameStart = (s.ch d).frameStart ∧ (t.ch d).bodyStart = (s.ch d).bodyStart ∧
      (t.ch d).crcOk = (s.ch d).crcOk ∧
      ((s.ch d).idx.toNat = 3 → OnlyChannel d s t [] ∧ (t.ch d).fieldStart = a ∧
        (t.ch d).phase = (s.ch d).phase) ∧
      ((s.ch d).idx.toNat ≠ 3 → (t.ch d).fieldStart = (s.ch d).fieldStart ∧ (t.ch d).phase = .msgId ∧
        OnlyChannel d s t [⟨(s.ch d).fieldStart, e, BitVec.ofNat 4 (5 * d.toNat + 1), .fixed,
          .fixed ((t.ch d).buf.read 3) ((t.ch d).buf.read 4)⟩])

/-- `MSGID_STEP`, `FWVER_STEP` and `APPLVER_STEP` (rules R130, R131, R132). -/
def Obligations.MsgIdFwVerApplVerSteps : Prop :=
  ∀ (d : Dir) (b : Byte) (a e : Offset) (s : State), (s.ch d).buf.wf = true → (s.ch d).idx.toNat ≤ 255 →
    (∃ t, exec (.msgId d b a e) s = .next t ∧
      OnlyChannel d s t [⟨a, e, BitVec.ofNat 4 (5 * d.toNat + 1), .msgId, .msgId b⟩] ∧
      Stored (s.ch d) (t.ch d) b ∧ SameFrameRegisters (s.ch d) (t.ch d) ∧ (t.ch d).phase = .fwVer) ∧
    (∃ t, exec (.fwVer d b a e) s = .next t ∧
      OnlyChannel d s t [⟨a, e, BitVec.ofNat 4 (5 * d.toNat + 1), .fwVer, .fwVer b⟩] ∧
      Stored (s.ch d) (t.ch d) b ∧ SameFrameRegisters (s.ch d) (t.ch d) ∧ (t.ch d).phase = .applVer) ∧
    (∃ t, exec (.applVer d b a e) s = .next t ∧
      OnlyChannel d s t [⟨a, e, BitVec.ofNat 4 (5 * d.toNat + 1), .applVer, .applVer b⟩] ∧
      Stored (s.ch d) (t.ch d) b ∧ SameFrameRegisters (s.ch d) (t.ch d) ∧ (t.ch d).phase = .msgType)

/-- `MSGTYPE_STEP`: BODY next when there is a body, otherwise the first integrity phase (rules R125, R133). -/
def Obligations.MsgTypeStep : Prop :=
  ∀ (d : Dir) (b : Byte) (a e : Offset) (s : State), (s.ch d).buf.wf = true → (s.ch d).idx.toNat ≤ 255 →
    ∃ t, exec (.msgType d b a e) s = .next t ∧
      OnlyChannel d s t [⟨a, e, BitVec.ofNat 4 (5 * d.toNat + 1), .msgType, .msgType b⟩] ∧
      Stored (s.ch d) (t.ch d) b ∧ SameFrameRegisters (s.ch d) (t.ch d) ∧
      (t.ch d).phase = (if 1 ≤ (s.ch d).bodyLen.toNat then .body else if s.cfg.crcPresent then .crc else .cks)

/-- `BODY_STEP`: `bodyStart` is noted at offset 9; the last body byte gives one BODY event over the whole body and
the first integrity phase (rules R125, R134). -/
def Obligations.BodyStep : Prop :=
  ∀ (d : Dir) (b : Byte) (a e : Offset) (s : State), (s.ch d).buf.wf = true → (s.ch d).idx.toNat ≤ 255 →
    ∃ t, exec (.body d b a e) s = .next t ∧ Stored (s.ch d) (t.ch d) b ∧
      (t.ch d).len = (s.ch d).len ∧ (t.ch d).bodyLen = (s.ch d).bodyLen ∧
      (t.ch d).frameStart = (s.ch d).frameStart ∧ (t.ch d).fieldStart = (s.ch d).fieldStart ∧
      (t.ch d).crcOk = (s.ch d).crcOk ∧
      (t.ch d).bodyStart = (if (s.ch d).idx.toNat = 9 then a else (s.ch d).bodyStart) ∧
      ((s.ch d).idx.toNat = 8 + (s.ch d).bodyLen.toNat →
        (t.ch d).phase = (if s.cfg.crcPresent then .crc else .cks) ∧
        OnlyChannel d s t [⟨(t.ch d).bodyStart, e, BitVec.ofNat 4 (5 * d.toNat + 2), .body,
          .body ((t.ch d).buf.slice 9 (s.ch d).bodyLen.toNat)⟩]) ∧
      ((s.ch d).idx.toNat ≠ 8 + (s.ch d).bodyLen.toNat →
        (t.ch d).phase = (s.ch d).phase ∧ OnlyChannel d s t [])

/-- `CRC_STEP`: the CRC-8 of the body is compared with the byte; the verdict goes into `crcOk` and CRC_VALUE, and a
mismatch adds ERR_CRC over the frame so far on lane 10 and changes nothing else (rules R101, R102, R107, R135). A run
reaches CRC with `CRC_PRESENT = 1` alone (rule R135); that exec of CRC does the same with `CRC_PRESENT = 0` is the
model's choice (log entry 12). -/
def Obligations.CrcStep : Prop :=
  ∀ (d : Dir) (b : Byte) (a e : Offset) (s : State), (s.ch d).buf.wf = true → (s.ch d).idx.toNat ≤ 255 →
    9 + (s.ch d).bodyLen.toNat ≤ 256 →
    ∃ t computed, exec (.crc d b a e) s = .next t ∧ Stored (s.ch d) (t.ch d) b ∧
      computed = crc8 s.cfg.crc ((t.ch d).buf.slice 9 (s.ch d).bodyLen.toNat) ∧
      (t.ch d).len = (s.ch d).len ∧ (t.ch d).bodyLen = (s.ch d).bodyLen ∧
      (t.ch d).frameStart = (s.ch d).frameStart ∧ (t.ch d).fieldStart = (s.ch d).fieldStart ∧
      (t.ch d).bodyStart = (s.ch d).bodyStart ∧ (t.ch d).phase = .cks ∧
      ((t.ch d).crcOk = true ↔ computed = b) ∧
      (computed = b → OnlyChannel d s t [⟨a, e, BitVec.ofNat 4 (5 * d.toNat + 3), .crcValue,
        .crcValue b computed true⟩]) ∧
      (computed ≠ b → OnlyChannel d s t [
        ⟨a, e, BitVec.ofNat 4 (5 * d.toNat + 3), .crcValue, .crcValue b computed false⟩,
        ⟨(s.ch d).frameStart, e, 10, .errCrc, .errCrc d b computed⟩])

/-- `CKS_STEP`: CKS_VALUE, ERR_CKS on a mismatch, then whatever the verdicts the events of the handler that the
frame's type bytes select, and last the channel's reset (rules R31, R106, R107, R136, R161). The stored bytes are
read in `stored (s.ch d) b`, the channel after STORE. -/
def Obligations.CksStep : Prop :=
  ∀ (d : Dir) (b : Byte) (a e : Offset) (s : State), (s.ch d).buf.wf = true → (s.ch d).idx.toNat ≤ 255 →
    9 + (s.ch d).bodyLen.toNat ≤ 256 → s.cfg.cksStart.toNat ≤ (s.ch d).idx.toNat →
    ∃ t u evs expected, exec (.cks d b a e) s = .next t ∧ Stored (s.ch d) (stored (s.ch d) b) b ∧
      expected = checksum ((stored (s.ch d) b).buf.slice s.cfg.cksStart.toNat
        ((s.ch d).idx.toNat - s.cfg.cksStart.toNat)) ∧
      t.ch d = Channel.resetValue ∧
      exec ((selectHandler ((stored (s.ch d) b).buf.read 8) ((stored (s.ch d) b).buf.read 2)).instr
        ⟨d, (stored (s.ch d) b).buf.read 2, (stored (s.ch d) b).buf.read 8,
          (stored (s.ch d) b).buf.slice 9 (s.ch d).bodyLen.toNat, (s.ch d).crcOk, (s.ch d).frameStart, e⟩) s = .next u ∧
      u.output = s.output ++ evs ∧
      (b = expected → OnlyChannel d s t ([⟨a, e, BitVec.ofNat 4 (5 * d.toNat + 3), .cksValue,
        .cksValue b expected true⟩] ++ evs)) ∧
      (b ≠ expected → OnlyChannel d s t ([
        ⟨a, e, BitVec.ofNat 4 (5 * d.toNat + 3), .cksValue, .cksValue b expected false⟩,
        ⟨(s.ch d).frameStart, e, 10, .errCks, .errCks d b expected⟩] ++ evs))

/-- The checksum verdict that the CKS step reports is that the bytes from `CKS_START` through the checksum byte sum
to 0 mod 256 (rules R105, R106). -/
def Obligations.ReportedChecksumVerdictIsZeroSum : Prop :=
  ∀ (d : Dir) (b : Byte) (a e : Offset) (s t : State), (s.ch d).buf.wf = true →
    s.cfg.cksStart.toNat ≤ (s.ch d).idx.toNat → exec (.cks d b a e) s = .next t →
    ∃ expected ok more, t.output = s.output ++ ⟨a, e, BitVec.ofNat 4 (5 * d.toNat + 3), .cksValue,
      .cksValue b expected ok⟩ :: more ∧
      (ok = true ↔ byteSum ((stored (s.ch d) b).buf.slice s.cfg.cksStart.toNat
        ((s.ch d).idx.toNat + 1 - s.cfg.cksStart.toNat)) % 256 = 0)

/-- A STORE past the last buffer byte faults: the model's own stop (log entry 7), in states that no run reaches
(rules R50, R142). -/
def Obligations.StoreBeyondBufferFaults : Prop :=
  ∀ (d : Dir) (b : Byte) (a e : Offset) (s : State), (s.ch d).phase ≠ .idle → 255 < (s.ch d).idx.toNat →
    exec (.data d b a e) s = .fault .bufferIndex

/-! ### Handlers -/

/-- `H_02`, `H_03` and `H_05`: the frames they handle; one CMD over the frame with the meaning of the direction and
no fields; nothing else changes (rules R177, R180, R182, R185). -/
def Obligations.HandlersWithoutFields : Prop :=
  ∀ (f : FrameArgs) (s : State),
    let cmd (m : Meaning) : Event := ⟨f.frameStart, f.stop, BitVec.ofNat 4 (5 * f.dir.toNat + 4), .cmd,
      .cmd f.dir f.appType f.msgType m []⟩
    exec (.h02 f) s = .next { s with output := s.output ++
      [cmd (if f.dir = .am then .ctrlResponse else .ctrlCommand)] } ∧
    exec (.h03 f) s = .next { s with output := s.output ++
      [cmd (if f.dir = .am then .queryResponse else .query)] } ∧
    exec (.h05 f) s = .next { s with output := s.output ++
      [cmd (if f.dir = .am then .opparamReportRespRequired else .opparamResponse)] } ∧
    (selectHandler f.msgType f.appType = .h02 ↔ f.msgType = 0x02 ∧ f.appType ≠ 0xAC) ∧
    (selectHandler f.msgType f.appType = .h03 ↔ f.msgType = 0x03 ∧ f.appType ≠ 0xAC) ∧
    (selectHandler f.msgType f.appType = .h05 ↔ f.msgType = 0x05)

/-- `H_02_AC`: it handles type `0x02` of appliance type `0xAC`; MODE from bits 7:5 of `body[1]` when there is one,
SETPOINT_X2 from `body[3]` when there is one, then the configured fields; nothing else changes (rules R176, R178,
R181). -/
def Obligations.AcStatusAndControlFields : Prop :=
  ∀ (f : FrameArgs) (s : State),
    (selectHandler f.msgType f.appType = .h02Ac ↔ f.msgType = 0x02 ∧ f.appType = 0xAC) ∧
    exec (.h02Ac f) s = .next { s with output := s.output ++ [⟨f.frameStart, f.stop,
      BitVec.ofNat 4 (5 * f.dir.toNat + 4), .cmd,
      .cmd f.dir f.appType f.msgType (if f.dir = .am then .acStatus else .acControl)
        ((match f.body[1]? with
          | some b => [(0x00, ((b.toNat / 32 : Nat) : Int))]
          | none => []) ++
         (match f.body[3]? with
          | some b => [(0x01, ((2 * (b.toNat % 16 + 16) + b.toNat / 16 % 2 : Nat) : Int))]
          | none => []) ++ s.cfg.acExtra.filterMap (extract f.body))⟩] }

/-- `H_03_AC`: it handles type `0x03` of appliance type `0xAC`; the CRC verdict as the field CRC_OK, no field when
there is no CRC byte; nothing else changes (rule R183). -/
def Obligations.AcQueryCarriesCrcVerdict : Prop :=
  ∀ (f : FrameArgs) (s : State),
    (selectHandler f.msgType f.appType = .h03Ac ↔ f.msgType = 0x03 ∧ f.appType = 0xAC) ∧
    exec (.h03Ac f) s = .next { s with output := s.output ++ [⟨f.frameStart, f.stop,
      BitVec.ofNat 4 (5 * f.dir.toNat + 4), .cmd,
      .cmd f.dir f.appType f.msgType (if f.dir = .am then .acQueryResponse else .acQuery)
        (if s.cfg.crcPresent then [(0x02, if f.crcOk then 1 else 0)] else [])⟩] }

/-- `H_04`: it handles type `0x04`; a report in AM; in MA the unexpected report, followed by ERR_UNEXPECTED_DIR on
lane 10; nothing else changes (rules R184, R232). -/
def Obligations.UnexpectedDirectionReported : Prop :=
  ∀ (f : FrameArgs) (s : State),
    let cmd (m : Meaning) : Event := ⟨f.frameStart, f.stop, BitVec.ofNat 4 (5 * f.dir.toNat + 4), .cmd,
      .cmd f.dir f.appType f.msgType m []⟩
    (selectHandler f.msgType f.appType = .h04 ↔ f.msgType = 0x04) ∧
    (f.dir = .am → exec (.h04 f) s = .next { s with output := s.output ++ [cmd .opparamReport] }) ∧
    (f.dir = .ma → exec (.h04 f) s = .next { s with output := s.output ++ [cmd .opparamReportUnexpected,
      ⟨f.frameStart, f.stop, 10, .errUnexpectedDir, .errUnexpectedDir f.dir f.appType f.msgType⟩] })

/-- `H_63`: it handles type `0x63`; in AM the address, `body[6]` its most significant octet, when the body has seven
bytes, then the configured fields; in MA no field whatever the body; nothing else changes (rules R54, R176, R179,
R186). -/
def Obligations.NetworkStatusFields : Prop :=
  ∀ (f : FrameArgs) (s : State),
    let cmd (m : Meaning) (fields : List Field) : Event :=
      ⟨f.frameStart, f.stop, BitVec.ofNat 4 (5 * f.dir.toNat + 4), .cmd,
      .cmd f.dir f.appType f.msgType m fields⟩
    (selectHandler f.msgType f.appType = .h63 ↔ f.msgType = 0x63) ∧
    (f.dir = .am → exec (.h63 f) s = .next { s with output := s.output ++ [cmd .netStatus
      ((match f.body[3]?, f.body[4]?, f.body[5]?, f.body[6]? with
        | some b3, some b4, some b5, some b6 =>
          [(0x03, ((b6.toNat * 16777216 + b5.toNat * 65536 + b4.toNat * 256 + b3.toNat : Nat) : Int))]
        | _, _, _, _ => []) ++ s.cfg.netExtra.filterMap (extract f.body))] }) ∧
    (f.dir = .ma → exec (.h63 f) s = .next { s with output := s.output ++ [cmd .netQuery []] })

/-- `H_81`: it handles type `0x81`; the switch code is the whole of `body[0]`, absent for an empty body, in both
directions; nothing else changes (rule R187). -/
def Obligations.ModeSwitchCode : Prop :=
  ∀ (f : FrameArgs) (s : State),
    (selectHandler f.msgType f.appType = .h81 ↔ f.msgType = 0x81) ∧
    exec (.h81 f) s = .next { s with output := s.output ++ [⟨f.frameStart, f.stop,
      BitVec.ofNat 4 (5 * f.dir.toNat + 4), .cmd,
      .cmd f.dir f.appType f.msgType (if f.dir = .am then .modeSwitchResult else .modeSwitchRequest)
        (match f.body with
          | b :: _ => [(0x04, (b.toNat : Int))]
          | [] => [])⟩] }

/-- `H_82`: it handles type `0x82`; in AM the restart code is the whole of `body[0]`, absent for an empty body; in MA
there is no field; nothing else changes (rule R188). -/
def Obligations.RestartCode : Prop :=
  ∀ (f : FrameArgs) (s : State),
    (selectHandler f.msgType f.appType = .h82 ↔ f.msgType = 0x82) ∧
    exec (.h82 f) s = .next { s with output := s.output ++ [⟨f.frameStart, f.stop,
      BitVec.ofNat 4 (5 * f.dir.toNat + 4), .cmd,
      .cmd f.dir f.appType f.msgType (if f.dir = .am then .restartResult else .restartRequest)
        (match f.dir, f.body with
          | .am, b :: _ => [(0x05, (b.toNat : Int))]
          | _, _ => [])⟩] }

/-- `H_DEFAULT`: it handles every type without a row; one UNRECOGNIZED on the command lane, no field, no error event;
nothing else changes (rule R189). -/
def Obligations.UnrecognizedTypeReported : Prop :=
  ∀ (f : FrameArgs) (s : State),
    (selectHandler f.msgType f.appType = .hDefault ↔
      f.msgType ∉ ([0x02, 0x03, 0x04, 0x05, 0x63, 0x81, 0x82] : List Byte)) ∧
    exec (.hDefault f) s = .next { s with output := s.output ++ [⟨f.frameStart, f.stop,
      BitVec.ofNat 4 (5 * f.dir.toNat + 4), .unrecognized, .unrecognized f.dir f.appType f.msgType⟩] }

/-- Every handler emits exactly one CMD or UNRECOGNIZED event, then at most one ERR_UNEXPECTED_DIR, which only
`H_04` in MA emits, and writes no channel state (rule R163). -/
def Obligations.DispatchEmitsOneCommand : Prop :=
  ∀ (h : Handler) (f : FrameArgs) (s : State), ∃ ev errs,
    exec (h.instr f) s = .next { s with output := s.output ++ ev :: errs } ∧
    ev.kind = (if h = .hDefault then .unrecognized else .cmd) ∧
    errs.map Event.kind = (if h = .h04 ∧ f.dir = .ma then [.errUnexpectedDir] else [])

/-! ### The field extractor -/

/-- A field whose bytes lie beyond the body is absent; otherwise its value is that of its conversion, the bytes
taken as numbers; a list gives the fields that are not absent, in order (rules R171, R172, R173, R174, R175). -/
def Obligations.ExtractFollowsDescriptor : Prop :=
  ∀ (body : List Byte) (desc : FieldDesc),
    let i := desc.i.toNat
    (body.length < i + (if desc.conv = .ipRev4 then 4 else 1) → extract body desc = none) ∧
    (∀ b, body[i]? = some b →
      (desc.conv = .raw → extract body desc =
        some (desc.fid, ((b.toNat / 2 ^ desc.lsb.toNat % 2 ^ desc.width.toNat : Nat) : Int))) ∧
      (desc.conv = .setpointX2 → extract body desc =
        some (desc.fid, ((2 * (b.toNat % 16 + 16) + b.toNat / 16 % 2 : Nat) : Int))) ∧
      (desc.conv = .tempX2 → extract body desc = some (desc.fid, (b.toNat : Int) - 50))) ∧
    (∀ b0 b1 b2 b3, body[i]? = some b0 → body[i + 1]? = some b1 → body[i + 2]? = some b2 →
      body[i + 3]? = some b3 → desc.conv = .ipRev4 → extract body desc =
        some (desc.fid, ((b3.toNat * 16777216 + b2.toNat * 65536 + b1.toNat * 256 + b0.toNat : Nat) : Int))) ∧
    ∀ descs : List FieldDesc, fieldsOf body descs = descs.filterMap (extract body)

/-- The range of each of the four conversions, and the bits or bytes it depends on: `IP_REV4` gives `0 .. 2^32-1`,
the same for bodies that agree on its four bytes, and different values for different bytes (rules R172, R173, R174,
R175). -/
def Obligations.ConversionRanges : Prop :=
  (∀ b : Byte, 32 ≤ convSetpointX2 b ∧ convSetpointX2 b ≤ 63 ∧ convSetpointX2 b = convSetpointX2 (b &&& 0x1F)) ∧
  (∀ b : Byte, -50 ≤ convTempX2 b ∧ convTempX2 b ≤ 205) ∧
  (∀ (b : Byte) (lsb width : Nat), convRaw b lsb width < 2 ^ width) ∧
  (∀ (b b' : Byte) (lsb width : Nat),
    (∀ k, lsb ≤ k → k < lsb + width → b.getLsbD k = b'.getLsbD k) → convRaw b lsb width = convRaw b' lsb width) ∧
  (∀ (body : List Byte) (desc : FieldDesc) (f : Field), desc.conv = .ipRev4 → extract body desc = some f →
    0 ≤ f.2 ∧ f.2 ≤ 4294967295) ∧
  (∀ (body body' : List Byte) (desc : FieldDesc), desc.conv = .ipRev4 →
    (∀ k, k < 4 → body[desc.i.toNat + k]? = body'[desc.i.toNat + k]?) → extract body desc = extract body' desc) ∧
  (∀ a0 a1 a2 a3 b0 b1 b2 b3 : Byte, convIpRev4 a0 a1 a2 a3 = convIpRev4 b0 b1 b2 b3 →
    a0 = b0 ∧ a1 = b1 ∧ a2 = b2 ∧ a3 = b3)

/-- Every value the extractor gives fits a signed 33-bit integer, whatever the descriptor and the body (rule R89). -/
def Obligations.ExtractedValuesFitSigned33 : Prop :=
  ∀ (body : List Byte) (desc : FieldDesc) (f : Field), extract body desc = some f → FitsSigned33 f.2

/-! ### The integrity units -/

/-- For this hardware's parameters the general form of the CRC-8 is the bit-reversed loop, on every byte sequence
(rule R100). -/
def Obligations.CrcIsReflectedLoop : Prop :=
  ∀ x : List Byte, crc8 ⟨0x31, 0x00, true, true, 0x00⟩ x = reflectedCrc8 x

/-- For every byte sequence, with this hardware's parameters, a sequence with its CRC-8 appended has the residue 0,
and no other byte gives it: the two validation forms agree (rule R103). -/
def Obligations.CrcResidueIsZero : Prop :=
  ∀ x : List Byte,
    crc8 ⟨0x31, 0x00, true, true, 0x00⟩ (x ++ [crc8 ⟨0x31, 0x00, true, true, 0x00⟩ x]) = 0x00 ∧
    ∀ b : Byte, crc8 ⟨0x31, 0x00, true, true, 0x00⟩ (x ++ [b]) = 0x00 ↔
      b = crc8 ⟨0x31, 0x00, true, true, 0x00⟩ x

/-- The checksum is the byte that brings the sum to 0 mod 256, and no other byte does; it is 0 for a sequence that
sums to 0 mod 256, the empty one among them (rules R104, R105, R106, R108). -/
def Obligations.ChecksumBringsSumToZero : Prop :=
  ∀ (x : List Byte) (b : Byte), (b = checksum x ↔ byteSum (x ++ [b]) % 256 = 0) ∧
    (byteSum x % 256 = 0 → checksum x = 0x00) ∧ checksum [] = 0x00

/-! ### The whole machine -/

/-- The invariant holds after reset (rules R24, R30, R251). -/
def Obligations.ResetStateInvariant : Prop := State.reset.Inv

/-- Every step keeps the invariant: position and index stay related as rule R24's table says, the buffers stay
canonical with nothing at or above the index, an IDLE channel holds the reset values, the length registers agree
with the length byte, and the configuration stays legal (rules R24, R25, R26, R31, R142). -/
def Obligations.StepKeepsInvariant : Prop :=
  ∀ s t : State, s.Inv → step s = .next t → t.Inv

/-- The index never passes `9 + bodyLen + T`, which is at most 256, and a STORE that runs writes at 255 or below
(rule R142). -/
def Obligations.IndexStaysInBuffer : Prop :=
  ∀ (s : State) (d : Dir), s.Inv → (s.ch d).idx.toNat ≤ 9 + (s.ch d).bodyLen.toNat + trailerLen s.cfg ∧
    9 + (s.ch d).bodyLen.toNat + trailerLen s.cfg ≤ 256 ∧ (s.ch d).idx.toNat ≤ 255

/-- MSFR never traps, halts or aborts: a step from a state of the invariant answers a next state, but for a
transaction with `op = 11` and a RESET under an illegal configuration, which are refused; it never faults (rules
R230, R245). -/
def Obligations.AdmittedStepsNeverStop : Prop :=
  ∀ s : State, s.Inv →
    (∀ t rest, s.input = t :: rest → t.hdr.toNat / 512 ≠ 3 →
      (t.hdr.toNat / 512 = 2 → ConfigInRange s.cfgIn) → ∃ s', step s = .next s') ∧
    (∀ f, step s ≠ .fault f)

/-- `DATA` completes from every state of the invariant, in every phase, for every byte and offsets (rules R121,
R230). -/
def Obligations.DataCompletes : Prop :=
  ∀ (d : Dir) (b : Byte) (a e : Offset) (s : State), s.Inv → ∃ t, exec (.data d b a e) s = .next t

/-- The kinds of a DATA step's events, in order, are those of rule R210's table for the phase; the four-event case
is the maximum. -/
def Obligations.EventKindsOfEachStep : Prop :=
  ∀ (d : Dir) (b : Byte) (a e : Offset) (s t : State), s.Inv → exec (.data d b a e) s = .next t →
    ∃ evs, t.output = s.output ++ evs ∧ evs.length ≤ 4 ∧
      match (s.ch d).phase with
      | .idle    => evs.map Event.kind = if b = 0xAA then [.sync] else []
      | .len     => evs.map Event.kind = [.length]
      | .appType => evs.map Event.kind = [.appType]
      | .fixed   => evs.map Event.kind = if (s.ch d).idx.toNat = 3 then [] else [.fixed]
      | .msgId   => evs.map Event.kind = [.msgId]
      | .fwVer   => evs.map Event.kind = [.fwVer]
      | .applVer => evs.map Event.kind = [.applVer]
      | .msgType => evs.map Event.kind = [.msgType]
      | .body    => evs.map Event.kind = if (s.ch d).idx.toNat = 8 + (s.ch d).bodyLen.toNat then [.body] else []
      | .crc     => evs.map Event.kind =
          if crc8 s.cfg.crc ((s.ch d).buf.slice 9 (s.ch d).bodyLen.toNat) = b then [.crcValue]
          else [.crcValue, .errCrc]
      | .cks     => evs.map Event.kind = [.cksValue] ++
          (if checksum ((s.ch d).buf.slice s.cfg.cksStart.toNat
            ((s.ch d).idx.toNat - s.cfg.cksStart.toNat)) = b then [] else [.errCks]) ++
          (match selectHandler ((s.ch d).buf.read 8) ((s.ch d).buf.read 2) with
            | .hDefault => [.unrecognized]
            | .h04 => if d = .ma then [.cmd, .errUnexpectedDir] else [.cmd]
            | _ => [.cmd])

/-- Every event a DATA step delivers has the shape of rules R88, R89, R92 and R212 for the step's direction: its
lane is its kind's, no reserved lane or field id occurs, and every value fits 33 bits. -/
def Obligations.DeliveredEventsAreShaped : Prop :=
  ∀ (d : Dir) (b : Byte) (a e : Offset) (s t : State), s.Inv → exec (.data d b a e) s = .next t →
    ∃ evs, t.output = s.output ++ evs ∧ ∀ ev ∈ evs, ev.Shaped d

/-- Every `end` of a delivered event is the current byte's, and every `start` is the current byte's or one that the
channel noted from an earlier byte of the frame: offsets are copied (rules R214, R215). -/
def Obligations.OffsetsAreCopied : Prop :=
  ∀ (d : Dir) (b : Byte) (a e : Offset) (s t : State), exec (.data d b a e) s = .next t →
    ∃ evs, t.output = s.output ++ evs ∧ ∀ ev ∈ evs, ev.stop = e ∧
      (ev.start = a ∨ ev.start = (s.ch d).frameStart ∨ ev.start = (s.ch d).fieldStart ∨
        ev.start = (s.ch d).bodyStart)

/-- The configuration in force changes at a RESET alone, and then to the configuration presented; no step changes
the configuration inputs (rules R27, R256). -/
def Obligations.ConfigurationChangesOnlyAtReset : Prop :=
  ∀ s t : State, step s = .next t → t.cfgIn = s.cfgIn ∧
    (t.cfg = s.cfg ∨ (t.cfg = s.cfgIn ∧ ∃ tx rest, s.input = tx :: rest ∧ tx.hdr.toNat / 512 = 2))

/-- A step takes exactly the transaction at the head of the input and only appends to the output: no event is
dropped, merged or reordered (rules R61, R210, R213). -/
def Obligations.StepsTakeOneTransactionAndAppend : Prop :=
  ∀ s t : State, step s = .next t → t.input = s.input.tail ∧ s.output <+: t.output

/-- The next phase follows the phase sequence: it depends on the phase, the position, the body length and the
configuration, on the byte in IDLE alone, and on no verdict (rules R90, R137, R230). -/
def Obligations.PhaseSequence : Prop :=
  ∀ (d : Dir) (b : Byte) (a e : Offset) (s t : State), s.Inv → exec (.data d b a e) s = .next t →
    (t.ch d).phase = match (s.ch d).phase with
      | .idle    => if b = 0xAA then .len else .idle
      | .len     => .appType
      | .appType => .fixed
      | .fixed   => if (s.ch d).idx.toNat = 3 then .fixed else .msgId
      | .msgId   => .fwVer
      | .fwVer   => .applVer
      | .applVer => .msgType
      | .msgType => if 1 ≤ (s.ch d).bodyLen.toNat then .body else if s.cfg.crcPresent then .crc else .cks
      | .body    => if (s.ch d).idx.toNat = 8 + (s.ch d).bodyLen.toNat then
          (if s.cfg.crcPresent then .crc else .cks) else .body
      | .crc     => .cks
      | .cks     => .idle

/-- No mid-frame resynchronisation: outside IDLE every byte, `0xAA` like any other, is stored at the index and gives
no SYNC, and the frame goes on with the `frameStart` it had, until the checksum step ends it (rule R137). -/
def Obligations.NoMidFrameResync : Prop :=
  ∀ (d : Dir) (b : Byte) (a e : Offset) (s t : State), s.Inv → (s.ch d).phase ≠ .idle →
    exec (.data d b a e) s = .next t →
    (∃ evs, t.output = s.output ++ evs ∧ ∀ ev ∈ evs, ev.kind ≠ .sync) ∧
    (((s.ch d).phase ≠ .cks ∧ Stored (s.ch d) (t.ch d) b ∧ (t.ch d).frameStart = (s.ch d).frameStart ∧
        (t.ch d).phase ≠ .idle ∧ (t.ch d).phase ≠ .len) ∨
      ((s.ch d).phase = .cks ∧ t.ch d = Channel.resetValue))

/-- Bytes between frames are dropped: from an IDLE channel any number of DATA bytes other than `0xAA` leave the whole
state as it was but for the input taken (rules R126, R143). -/
def Obligations.GarbageBetweenFramesDropped : Prop :=
  ∀ (d : Dir) (xs : List WireByte) (rest : List Transaction) (s : State), s.launched = true →
    (s.ch d).phase = .idle → (∀ x ∈ xs, x.byte ≠ 0xAA) →
    s.input = xs.map (WireByte.transaction d) ++ rest → run xs.length s = .next { s with input := rest }

/-- Buffer bytes at or above `idx` belong to no frame: two channels with equal registers that agree below `idx` give
the same events on every byte, and agree again afterwards (rules R24, R25). -/
def Obligations.StaleBytesUnobservable : Prop :=
  ∀ (d : Dir) (b : Byte) (a e : Offset) (s t : State) (c : Channel), configLegal s.cfg = true →
    (s.ch d).Positioned s.cfg → (s.ch d).buf.wf = true → c.buf.wf = true → SameVisible (s.ch d) c →
    (s.ch d).bodyLen.toNat + 8 + trailerLen s.cfg ≤ 255 → exec (.data d b a e) s = .next t →
    ∃ t', exec (.data d b a e) (s.setCh d c) = .next t' ∧ t'.output = t.output ∧ SameVisible (t.ch d) (t'.ch d)

/-- Two canonical buffers that read the same at every index are the same data (rule R50). -/
def Obligations.EqualReadsEqualBuffers : Prop :=
  ∀ m m' : Memory, m.wf = true → m'.wf = true → (∀ a, m.read a = m'.read a) → m = m'

/-- Channel isolation: for any interleaving of DATA transactions, the events that belong to channel `d` are, in order
and content, what its own transactions alone give, and the channel ends in the same state (rules R62, R139). -/
def Obligations.ChannelIsolation : Prop :=
  ∀ (d : Dir) (s : State) (ts : List Transaction), s.Inv → (∀ t ∈ ts, t.isData = true) →
    ∃ u v evs alone, run ts.length { s with input := ts } = .next u ∧
      run (ts.filter (fun t => t.dir == d)).length { s with input := ts.filter (fun t => t.dir == d) } = .next v ∧
      u.ch d = v.ch d ∧ u.output = s.output ++ evs ∧ v.output = s.output ++ alone ∧
      evs.filter (Event.ofChannel d) = alone

/-- A whole frame: from an IDLE channel at its reset values, a sync byte followed by the bytes of the frame that the
length byte declares gives exactly the events of the frame layout, in the order and with the spans and payloads of
the rules, whatever its integrity bytes, and leaves everything else as it was (rules R74, R75, R77, R161, R210,
R211, R215). -/
def Obligations.WholeFrameDecoded : Prop :=
  ∀ (d : Dir) (s : State) (xs : List WireByte) (rest : List Transaction), s.launched = true →
    configLegal s.cfg = true → s.ch d = Channel.resetValue → (wireAt xs 0).byte = 0xAA →
    xs.length = 9 + declaredBody s.cfg xs + trailerLen s.cfg →
    s.input = xs.map (WireByte.transaction d) ++ rest →
    run xs.length s = .next { s with input := rest, output := s.output ++ frameEvents s.cfg d xs }

/-- Idempotence under reset: for every state and every stream of DATA and OTHER transactions, `RESET ++ S` and
`RESET ++ S ++ RESET ++ S` end in the same state but for the output, and the second gives the output of the first
twice over (rule R259). That both RESETs sample the same configuration, and that the output is never full, are the
model's choices (log entries 2 and 4). -/
def Obligations.ResetMakesStreamsIdempotent : Prop :=
  ∀ (s : State) (ts : List Transaction), ConfigInRange s.cfgIn →
    (∀ t ∈ ts, t.isData = true ∨ t.isOther = true) →
    ∃ (u : State) (evs : List Event), run (ts.length + 1) { s with input := resetTransaction :: ts } =
        .next { u with output := s.output ++ evs } ∧
      run (2 * (ts.length + 1)) { s with input := resetTransaction :: ts ++ resetTransaction :: ts } =
        .next { u with output := s.output ++ evs ++ evs }
end

