-- ==== Sys2Proof/Laws/Memory.lean ====
section
/-! SUPPORT. The laws of a frame buffer: a read after a write, the canonical form kept, equal reads of canonical
buffers are equal data, and the ranges. -/

namespace Sys2Proof.Machine

open Sys2Proof

@[simp] theorem Memory.read_nil (a : Nat) : Memory.read [] a = unlistedByte := rfl

theorem Memory.read_cons (k a : Nat) (v : Byte) (rest : Memory) :
    Memory.read ((k, v) :: rest) a = if k = a then v else Memory.read rest a := rfl

theorem Memory.read_cellFor_append (a x : Nat) (v : Byte) (rest : Memory)
    (h : Memory.read rest a = unlistedByte) :
    Memory.read (cellFor a v ++ rest) x = if a = x then v else Memory.read rest x := by
  unfold cellFor
  split
  · rename_i hv
    by_cases hx : a = x
    · subst hx; simp [hv, h]
    · simp [hx]
  · simp [Memory.read_cons]

/-- A canonical buffer reads as cleared below its first listed index. -/
theorem Memory.read_below {lo a : Nat} {m : Memory} (h : Memory.wfFrom lo m = true) (ha : a < lo) :
    m.read a = unlistedByte := by
  induction m generalizing lo with
  | nil => rfl
  | cons cell rest ih =>
    obtain ⟨k, v⟩ := cell
    simp only [Memory.wfFrom, Bool.and_eq_true, decide_eq_true_eq] at h
    rw [Memory.read_cons, if_neg (by omega)]
    exact ih h.2 (by omega)

theorem Memory.wfFrom_mono {lo lo' : Nat} {m : Memory} (h : Memory.wfFrom lo m = true) (hl : lo' ≤ lo) :
    Memory.wfFrom lo' m = true := by
  cases m with
  | nil => rfl
  | cons cell rest =>
    obtain ⟨k, v⟩ := cell
    simp only [Memory.wfFrom, Bool.and_eq_true, decide_eq_true_eq] at h ⊢
    exact ⟨⟨by omega, h.1.2⟩, h.2⟩

theorem Memory.wfFrom_cellFor_append {lo a : Nat} {m : Memory} (v : Byte) (h : Memory.wfFrom (a + 1) m = true)
    (hl : lo ≤ a) : Memory.wfFrom lo (cellFor a v ++ m) = true := by
  unfold cellFor
  split
  · exact Memory.wfFrom_mono h (by omega)
  · rename_i hv
    simp only [List.singleton_append, Memory.wfFrom, Bool.and_eq_true, decide_eq_true_eq]
    exact ⟨⟨hl, by simpa using hv⟩, h⟩

/-- A write keeps the canonical form. -/
theorem Memory.wfFrom_write {lo a : Nat} {m : Memory} (v : Byte) (h : Memory.wfFrom lo m = true) (hl : lo ≤ a) :
    Memory.wfFrom lo (m.write a v) = true := by
  induction m generalizing lo with
  | nil => simpa [Memory.write] using Memory.wfFrom_cellFor_append (m := []) v rfl hl
  | cons cell rest ih =>
    obtain ⟨k, w⟩ := cell
    simp only [Memory.wfFrom, Bool.and_eq_true, decide_eq_true_eq] at h
    unfold Memory.write
    split
    · refine Memory.wfFrom_cellFor_append v ?_ hl
      simp only [Memory.wfFrom, Bool.and_eq_true, decide_eq_true_eq]
      exact ⟨⟨by omega, h.1.2⟩, h.2⟩
    · split
      · rename_i hk
        subst hk
        exact Memory.wfFrom_cellFor_append v h.2 hl
      · simp only [Memory.wfFrom, Bool.and_eq_true, decide_eq_true_eq]
        exact ⟨h.1, ih h.2 (by omega)⟩

/-- The canonical form of rule R50's buffer is kept by its only write operation. -/
theorem Memory.wf_write {m : Memory} (a : Nat) (v : Byte) (h : m.wf = true) : (m.write a v).wf = true :=
  Memory.wfFrom_write v h (Nat.zero_le a)

theorem Memory.wf_nil : Memory.wf [] = true := rfl

theorem Memory.read_write_from {lo a : Nat} {m : Memory} (v : Byte) (x : Nat) (h : Memory.wfFrom lo m = true) :
    (m.write a v).read x = if a = x then v else m.read x := by
  induction m generalizing lo with
  | nil => simpa [Memory.write] using Memory.read_cellFor_append a x v [] rfl
  | cons cell rest ih =>
    obtain ⟨k, w⟩ := cell
    simp only [Memory.wfFrom, Bool.and_eq_true, decide_eq_true_eq] at h
    unfold Memory.write
    split
    · refine Memory.read_cellFor_append a x v _ ?_
      rw [Memory.read_cons, if_neg (by omega)]
      exact Memory.read_below h.2 (by omega)
    · split
      · rename_i hk
        subst hk
        rw [Memory.read_cellFor_append a x v rest (Memory.read_below h.2 (by omega)), Memory.read_cons]
        split <;> rfl
      · rename_i hk
        rw [Memory.read_cons, Memory.read_cons, ih h.2]
        by_cases hx : k = x
        · rw [if_pos hx, if_pos hx, if_neg (by omega)]
        · rw [if_neg hx, if_neg hx]

/-- A read after a write: the byte written at its own index, the old byte elsewhere. -/
theorem Memory.read_write {m : Memory} (a : Nat) (v : Byte) (x : Nat) (h : m.wf = true) :
    (m.write a v).read x = if a = x then v else m.read x :=
  Memory.read_write_from v x h

theorem Memory.read_write_same {m : Memory} (a : Nat) (v : Byte) (h : m.wf = true) : (m.write a v).read a = v := by
  rw [Memory.read_write a v a h, if_pos rfl]

theorem Memory.read_write_other {m : Memory} {a x : Nat} (v : Byte) (h : m.wf = true) (hx : a ≠ x) :
    (m.write a v).read x = m.read x := by
  rw [Memory.read_write a v x h, if_neg hx]

theorem Memory.mem_cellFor {a : Nat} {v : Byte} {cell : Host.Cell} (h : cell ∈ cellFor a v) : cell.1 = a := by
  unfold cellFor at h
  split at h
  · cases h
  · rw [List.mem_singleton.mp h]

/-- The listed indices after a write. -/
theorem Memory.mem_write {m : Memory} {a : Nat} {v : Byte} {cell : Host.Cell} (h : cell ∈ m.write a v) :
    cell ∈ m ∨ cell.1 = a := by
  induction m with
  | nil => exact .inr (Memory.mem_cellFor h)
  | cons head rest ih =>
    obtain ⟨k, w⟩ := head
    unfold Memory.write at h
    split at h
    · exact (List.mem_append.mp h).symm.imp id Memory.mem_cellFor
    · split at h
      · exact (List.mem_append.mp h).symm.imp (List.mem_cons_of_mem _) Memory.mem_cellFor
      · rcases List.mem_cons.mp h with rfl | h
        · exact .inl List.mem_cons_self
        · exact (ih h).imp (List.mem_cons_of_mem _) id

/-- An index above every listed one reads as cleared. -/
theorem Memory.read_above {m : Memory} {n a : Nat} (h : ∀ cell ∈ m, cell.1 < n) (ha : n ≤ a) :
    m.read a = unlistedByte := by
  induction m with
  | nil => rfl
  | cons cell rest ih =>
    obtain ⟨k, v⟩ := cell
    have hk : k < n := h (k, v) (by simp)
    rw [Memory.read_cons, if_neg (by omega)]
    exact ih (fun c hc => h c (by simp [hc]))

@[simp] theorem Memory.slice_zero (m : Memory) (lo : Nat) : m.slice lo 0 = [] := rfl

theorem Memory.slice_succ (m : Memory) (lo n : Nat) : m.slice lo (n + 1) = m.read lo :: m.slice (lo + 1) n := rfl

@[simp] theorem Memory.slice_length (m : Memory) (lo n : Nat) : (m.slice lo n).length = n := by
  induction n generalizing lo with
  | zero => rfl
  | succ n ih => simp [Memory.slice_succ, ih]

/-- A range depends on the bytes in it alone. -/
theorem Memory.slice_congr {m m' : Memory} {lo n : Nat} (h : ∀ a, lo ≤ a → a < lo + n → m.read a = m'.read a) :
    m.slice lo n = m'.slice lo n := by
  induction n generalizing lo with
  | zero => rfl
  | succ n ih =>
    rw [Memory.slice_succ, Memory.slice_succ, h lo (by omega) (by omega)]
    rw [ih (fun a h1 h2 => h a (by omega) (by omega))]

/-- A range and the byte after it. -/
theorem Memory.slice_snoc (m : Memory) (lo n : Nat) : m.slice lo (n + 1) = m.slice lo n ++ [m.read (lo + n)] := by
  induction n generalizing lo with
  | zero => rfl
  | succ n ih =>
    rw [Memory.slice_succ, ih (lo + 1), Memory.slice_succ, List.cons_append]
    congr 3
    rw [Nat.add_right_comm]
    rfl

end Sys2Proof.Machine
end

