-- ==== Sys2Proof/Laws/State.lean ====
section
/-! SUPPORT. One lemma per field per update of the state and of a channel. -/

namespace Sys2Proof.Machine

open Sys2Proof

section
variable (s : State) (d : Dir) (c : Channel) (evs : List Event)

@[simp] theorem Dir.other_ne : d.other ≠ d := by cases d <;> decide
@[simp] theorem Dir.ne_other : d ≠ d.other := by cases d <;> decide
@[simp] theorem Dir.other_other : d.other.other = d := by cases d <;> rfl

@[simp] theorem State.setCh_ch : (s.setCh d c).ch d = c := by cases d <;> rfl
@[simp] theorem State.setCh_ch_other : (s.setCh d c).ch d.other = s.ch d.other := by cases d <;> rfl
@[simp] theorem State.setCh_other_ch : (s.setCh d.other c).ch d = s.ch d := by cases d <;> rfl
@[simp] theorem State.setCh_cfg : (s.setCh d c).cfg = s.cfg := by cases d <;> rfl
@[simp] theorem State.setCh_cfgIn : (s.setCh d c).cfgIn = s.cfgIn := by cases d <;> rfl
@[simp] theorem State.setCh_input : (s.setCh d c).input = s.input := by cases d <;> rfl
@[simp] theorem State.setCh_output : (s.setCh d c).output = s.output := by cases d <;> rfl
@[simp] theorem State.setCh_launched : (s.setCh d c).launched = s.launched := by cases d <;> rfl
@[simp] theorem State.setCh_self : s.setCh d (s.ch d) = s := by cases d <;> rfl

theorem State.setCh_setCh (c' : Channel) : (s.setCh d c).setCh d c' = s.setCh d c' := by cases d <;> rfl

@[simp] theorem State.emit_ch : (s.emit evs).ch d = s.ch d := by cases d <;> rfl
@[simp] theorem State.emit_am : (s.emit evs).am = s.am := rfl
@[simp] theorem State.emit_ma : (s.emit evs).ma = s.ma := rfl
@[simp] theorem State.emit_cfg : (s.emit evs).cfg = s.cfg := rfl
@[simp] theorem State.emit_cfgIn : (s.emit evs).cfgIn = s.cfgIn := rfl
@[simp] theorem State.emit_input : (s.emit evs).input = s.input := rfl
@[simp] theorem State.emit_output : (s.emit evs).output = s.output ++ evs := rfl
@[simp] theorem State.emit_launched : (s.emit evs).launched = s.launched := rfl
@[simp] theorem State.emit_nil : s.emit [] = s := by simp [State.emit]

@[simp] theorem State.ch_input (ts : List Transaction) : State.ch { s with input := ts } d = s.ch d := by
  cases d <;> rfl
@[simp] theorem State.ch_output (out : List Event) : State.ch { s with output := out } d = s.ch d := by
  cases d <;> rfl

@[simp] theorem resetChannels_ch : (resetChannels s).ch d = Channel.resetValue := by cases d <;> rfl
@[simp] theorem resetChannels_cfg : (resetChannels s).cfg = s.cfgIn := rfl
@[simp] theorem resetChannels_cfgIn : (resetChannels s).cfgIn = s.cfgIn := rfl
@[simp] theorem resetChannels_input : (resetChannels s).input = s.input := rfl
@[simp] theorem resetChannels_output : (resetChannels s).output = s.output := rfl
@[simp] theorem resetChannels_launched : (resetChannels s).launched = true := rfl
end

section
variable (d : Dir) (s e : Offset) (p : Payload)

@[simp] theorem stamp_start : (stamp d s e p).start = s := rfl
@[simp] theorem stamp_stop : (stamp d s e p).stop = e := rfl
@[simp] theorem stamp_lane : (stamp d s e p).lane = p.kind.lane d := rfl
@[simp] theorem stamp_kind : (stamp d s e p).kind = p.kind := rfl
@[simp] theorem stamp_payload : (stamp d s e p).payload = p := rfl
end

/-- Two states are equal when their channels, read by direction, and their other fields are. -/
theorem State.ext_ch {s t : State} (d : Dir) (h1 : s.ch d = t.ch d) (h2 : s.ch d.other = t.ch d.other)
    (h3 : s.cfg = t.cfg) (h4 : s.cfgIn = t.cfgIn) (h5 : s.input = t.input) (h6 : s.output = t.output)
    (h7 : s.launched = t.launched) : s = t := by
  cases s; cases t; cases d <;> simp_all [State.ch, Dir.other]

end Sys2Proof.Machine
end

