-- ==== Sys2Proof/Laws/Ops.lean ====
section
/-! SUPPORT. One lemma for each shared operation that says everything it can do. -/

namespace Sys2Proof.Machine

open Sys2Proof

/-- A conversion's code names it (rule R82). -/
@[simp] theorem decodeConv_code (c : Conv) : decodeConv c.code = c := by cases c <;> rfl

/-- A code is that of the conversion it names (rule R82). -/
@[simp] theorem code_decodeConv : ∀ code : BitVec 2, (decodeConv code).code = code := by decide

/-- The CRC-8 of the empty sequence as the pseudocode of rule R100 gives it (log entry 17). -/
theorem crc8_nil (p : CrcParams) : crc8 p [] = (if p.refOut then reflect8 p.init else p.init) ^^^ p.xorOut := rfl

/-- STORE inside the buffer. -/
theorem store_ok {c : Channel} {b : Byte} (h : c.idx.toNat < bufferSize) :
    store c b = .ok (c.idx.toNat, stored c b) := by
  simp [store, h]

/-- STORE past the buffer. -/
theorem store_fault {c : Channel} {b : Byte} (h : ¬ c.idx.toNat < bufferSize) : store c b = .error .bufferIndex := by
  simp [store, h]

/-- What a step that runs STORE first can answer. -/
theorem afterStore_ok {c : Channel} {b : Byte} {k : Nat → Channel → ChannelResult} {r : Channel × List Event}
    (h : afterStore c b k = .ok r) :
    c.idx.toNat < bufferSize ∧
      k c.idx.toNat (stored c b) = .ok r := by
  by_cases hi : c.idx.toNat < bufferSize
  · rw [afterStore, store_ok hi] at h
    exact ⟨hi, h⟩
  · rw [afterStore, store_fault hi] at h
    cases h

theorem afterStore_eq {c : Channel} {b : Byte} (k : Nat → Channel → ChannelResult) (h : c.idx.toNat < bufferSize) :
    afterStore c b k = k c.idx.toNat (stored c b) := by
  rw [afterStore, store_ok h]

/-- The 9-bit index counts without wrapping inside the buffer. -/
theorem idx_succ {i : BitVec 9} (h : i.toNat < bufferSize) : (i + 1).toNat = i.toNat + 1 := by
  simp only [bufferSize] at h
  bv_omega

/-- A range read inside the buffer. -/
theorem loadRange_eq {c : Channel} {lo n : Nat} (h : lo + n ≤ bufferSize) :
    loadRange c lo n = .ok (c.buf.slice lo n) := by
  simp [loadRange, h]

theorem loadRange_ok {c : Channel} {lo n : Nat} {x : List Byte} (h : loadRange c lo n = .ok x) :
    lo + n ≤ bufferSize ∧ x = c.buf.slice lo n := by
  unfold loadRange at h
  split at h
  · rename_i hb
    exact ⟨hb, by cases h; rfl⟩
  · cases h

theorem loadBody_eq {c : Channel} (h : bodyStartOffset + c.bodyLen.toNat ≤ bufferSize) :
    loadBody c = .ok (c.buf.slice bodyStartOffset c.bodyLen.toNat) := loadRange_eq h

/-- What the end of a step can answer. -/
theorem commit_next {s t : State} {d : Dir} {r : ChannelResult} (h : commit s d r = .next t) :
    ∃ c evs, r = .ok (c, evs) ∧ t = (s.setCh d c).emit evs := by
  cases r with
  | error f => cases h
  | ok p =>
    obtain ⟨c, evs⟩ := p
    exact ⟨c, evs, rfl, by cases h; rfl⟩

theorem commit_ne_refused {s : State} {d : Dir} {r : ChannelResult} {x : Refusal} : commit s d r ≠ .refused x := by
  cases r with
  | error f => simp [commit]
  | ok p => obtain ⟨c, evs⟩ := p; simp [commit]

theorem fetch_nil {s : State} (h : s.input = []) : fetch s = none := by simp [fetch, h]

theorem fetch_cons {s : State} {t : Transaction} {rest : List Transaction} (h : s.input = t :: rest) :
    fetch s = some (t, { s with input := rest }) := by simp [fetch, h]

/-- An error event is there or not. -/
theorem errorEvent_length (failed : Bool) (d : Dir) (a e : Offset) (p : Payload) :
    (errorEvent failed d a e p).length = failed.toNat := by
  cases failed <;> rfl

/-- The body length never reaches past what one length byte can declare (rule R124). -/
theorem bodyLength_toNat (cfg : Config) (len : Byte) :
    (bodyLength cfg len).toNat = len.toNat - 8 - trailerLen cfg := by
  have := len.isLt
  simp only [bodyLength, BitVec.toNat_ofNat]
  exact Nat.mod_eq_of_lt (by omega)

theorem trailerLen_cases (cfg : Config) :
    (cfg.crcPresent = true ∧ trailerLen cfg = 2 ∧ afterBody cfg = .crc) ∨
      (cfg.crcPresent = false ∧ trailerLen cfg = 1 ∧ afterBody cfg = .cks) := by
  cases h : cfg.crcPresent <;> simp [trailerLen, afterBody, h]

end Sys2Proof.Machine
end

