-- ==== Sys2Proof/Laws/PerInstr.lean ====
section
/-! SUPPORT. A fact about every row of `opcode_table.json`, instruction by instruction: the encoding of a
well-formed instruction satisfies its row's `match` and `mask`. -/

namespace Sys2Proof.Laws.RowMatch

open Sys2Proof

/-- The `match` and `mask` of the instruction's row in `opcode_table.json`. -/
def row : Instr → Nat × Nat
  | .other _ _ _ _   => (0x000, 0x600)
  | .data _ _ _ _    => (0x200, 0x600)
  | .reset _ _ _ _   => (0x400, 0x600)
  | .idle _ _ _ _    => (0x0, 0xF)
  | .len _ _ _ _     => (0x1, 0xF)
  | .appType _ _ _ _ => (0x2, 0xF)
  | .fixed _ _ _ _   => (0x3, 0xF)
  | .msgId _ _ _ _   => (0x4, 0xF)
  | .fwVer _ _ _ _   => (0x5, 0xF)
  | .applVer _ _ _ _ => (0x6, 0xF)
  | .msgType _ _ _ _ => (0x7, 0xF)
  | .body _ _ _ _    => (0x8, 0xF)
  | .crc _ _ _ _     => (0x9, 0xF)
  | .cks _ _ _ _     => (0xA, 0xF)
  | .h02Ac _    => (0x02AC, 0xFFFF)
  | .h03Ac _    => (0x03AC, 0xFFFF)
  | .h02 _      => (0x0200, 0xFF00)
  | .h03 _      => (0x0300, 0xFF00)
  | .h04 _      => (0x0400, 0xFF00)
  | .h05 _      => (0x0500, 0xFF00)
  | .h63 _      => (0x6300, 0xFF00)
  | .h81 _      => (0x8100, 0xFF00)
  | .h82 _      => (0x8200, 0xFF00)
  | .hDefault _ => (0x0000, 0x0000)

/-- The selecting field of an encoding, as a number. -/
def selector : Encoded → Nat
  | .input hdr _ _          => hdr.toNat
  | .phase code _ _ _       => code.toNat
  | .dispatch key _ _ _ _ _ => key.toNat

/-- The encoding of a well-formed instruction satisfies its row. -/
def Statement (i : Instr) : Prop := i.wf = true → selector (encode i) &&& (row i).2 = (row i).1

/-- Under a mask of bits 10:9, a header is its operation. -/
theorem packHeader_op (d : Dir) : ∀ (op : BitVec 2) (b : Byte), (packHeader op d b).toNat &&& 0x600 = op.toNat * 512 := by
  cases d <;> decide

/-- Under a mask of bits 15:8, a key is its message type. -/
theorem packKey_high (m t : Byte) : (packKey m t).toNat &&& 0xFF00 = m.toNat * 256 := by
  have hm : (0xFF00 : Nat) = (2 ^ 8 - 1) <<< 8 := by decide
  have hs : m.toNat * 256 = m.toNat <<< 8 := by simp [Nat.shiftLeft_eq]
  apply Nat.eq_of_testBit_eq
  intro k
  rw [hm, hs, Nat.testBit_and, Nat.testBit_shiftLeft, Nat.testBit_shiftLeft, Nat.testBit_two_pow_sub_one, packKey,
    BitVec.testBit_toNat, BitVec.testBit_toNat, BitVec.getLsbD_append]
  by_cases hk : k < 8
  · simp [hk, Nat.not_le.mpr hk]
  · by_cases hk' : k - 8 < 8
    · simp [hk, hk', Bool.and_comm]
    · simp [hk, hk', BitVec.getLsbD_of_ge m (k - 8) (by omega)]

theorem other (d : Dir) (b : Byte) (s e : Offset) : Statement (.other d b s e) := fun _ => packHeader_op d 0b00 b
theorem data (d : Dir) (b : Byte) (s e : Offset) : Statement (.data d b s e) := fun _ => packHeader_op d 0b01 b
theorem reset (d : Dir) (b : Byte) (s e : Offset) : Statement (.reset d b s e) := fun _ => packHeader_op d 0b10 b
theorem idle (d : Dir) (b : Byte) (s e : Offset) : Statement (.idle d b s e) :=
  fun _ => (by decide : (Phase.code .idle).toNat &&& 0xF = 0x0)
theorem len (d : Dir) (b : Byte) (s e : Offset) : Statement (.len d b s e) :=
  fun _ => (by decide : (Phase.code .len).toNat &&& 0xF = 0x1)
theorem appType (d : Dir) (b : Byte) (s e : Offset) : Statement (.appType d b s e) :=
  fun _ => (by decide : (Phase.code .appType).toNat &&& 0xF = 0x2)
theorem fixed (d : Dir) (b : Byte) (s e : Offset) : Statement (.fixed d b s e) :=
  fun _ => (by decide : (Phase.code .fixed).toNat &&& 0xF = 0x3)
theorem msgId (d : Dir) (b : Byte) (s e : Offset) : Statement (.msgId d b s e) :=
  fun _ => (by decide : (Phase.code .msgId).toNat &&& 0xF = 0x4)
theorem fwVer (d : Dir) (b : Byte) (s e : Offset) : Statement (.fwVer d b s e) :=
  fun _ => (by decide : (Phase.code .fwVer).toNat &&& 0xF = 0x5)
theorem applVer (d : Dir) (b : Byte) (s e : Offset) : Statement (.applVer d b s e) :=
  fun _ => (by decide : (Phase.code .applVer).toNat &&& 0xF = 0x6)
theorem msgType (d : Dir) (b : Byte) (s e : Offset) : Statement (.msgType d b s e) :=
  fun _ => (by decide : (Phase.code .msgType).toNat &&& 0xF = 0x7)
theorem body (d : Dir) (b : Byte) (s e : Offset) : Statement (.body d b s e) :=
  fun _ => (by decide : (Phase.code .body).toNat &&& 0xF = 0x8)
theorem crc (d : Dir) (b : Byte) (s e : Offset) : Statement (.crc d b s e) :=
  fun _ => (by decide : (Phase.code .crc).toNat &&& 0xF = 0x9)
theorem cks (d : Dir) (b : Byte) (s e : Offset) : Statement (.cks d b s e) :=
  fun _ => (by decide : (Phase.code .cks).toNat &&& 0xF = 0xA)

theorem h02Ac (f : FrameArgs) : Statement (.h02Ac f) := by
  intro h
  simp only [Instr.wf, Bool.and_eq_true, beq_iff_eq] at h
  simp only [encode, encodeHandler, selector, row, h.2.1, h.2.2]
  decide
theorem h03Ac (f : FrameArgs) : Statement (.h03Ac f) := by
  intro h
  simp only [Instr.wf, Bool.and_eq_true, beq_iff_eq] at h
  simp only [encode, encodeHandler, selector, row, h.2.1, h.2.2]
  decide
theorem h02 (f : FrameArgs) : Statement (.h02 f) := by
  intro h
  simp only [Instr.wf, Bool.and_eq_true, beq_iff_eq] at h
  simp only [encode, encodeHandler, selector, row, packKey_high, h.2.1]
  decide
theorem h03 (f : FrameArgs) : Statement (.h03 f) := by
  intro h
  simp only [Instr.wf, Bool.and_eq_true, beq_iff_eq] at h
  simp only [encode, encodeHandler, selector, row, packKey_high, h.2.1]
  decide
theorem h04 (f : FrameArgs) : Statement (.h04 f) := by
  intro h
  simp only [Instr.wf, Bool.and_eq_true, beq_iff_eq] at h
  simp only [encode, encodeHandler, selector, row, packKey_high, h.2]
  decide
theorem h05 (f : FrameArgs) : Statement (.h05 f) := by
  intro h
  simp only [Instr.wf, Bool.and_eq_true, beq_iff_eq] at h
  simp only [encode, encodeHandler, selector, row, packKey_high, h.2]
  decide
theorem h63 (f : FrameArgs) : Statement (.h63 f) := by
  intro h
  simp only [Instr.wf, Bool.and_eq_true, beq_iff_eq] at h
  simp only [encode, encodeHandler, selector, row, packKey_high, h.2]
  decide
theorem h81 (f : FrameArgs) : Statement (.h81 f) := by
  intro h
  simp only [Instr.wf, Bool.and_eq_true, beq_iff_eq] at h
  simp only [encode, encodeHandler, selector, row, packKey_high, h.2]
  decide
theorem h82 (f : FrameArgs) : Statement (.h82 f) := by
  intro h
  simp only [Instr.wf, Bool.and_eq_true, beq_iff_eq] at h
  simp only [encode, encodeHandler, selector, row, packKey_high, h.2]
  decide
theorem hDefault (f : FrameArgs) : Statement (.hDefault f) := fun _ => Nat.and_zero _

end Sys2Proof.Laws.RowMatch
end

