-- ==== Sys2Proof/Laws/Steps.lean ====
section
/-! SUPPORT. What each phase step leaves, once: the channel's part of DATA as one function, and each phase step
written out where its buffer accesses are inside the buffer. -/

namespace Sys2Proof.Machine

open Sys2Proof

section
variable (c : Channel) (b : Byte)

@[simp] theorem stored_phase : (stored c b).phase = c.phase := rfl
@[simp] theorem stored_buf : (stored c b).buf = c.buf.write c.idx.toNat b := rfl
@[simp] theorem stored_idx : (stored c b).idx = c.idx + 1 := rfl
@[simp] theorem stored_len : (stored c b).len = c.len := rfl
@[simp] theorem stored_bodyLen : (stored c b).bodyLen = c.bodyLen := rfl
@[simp] theorem stored_frameStart : (stored c b).frameStart = c.frameStart := rfl
@[simp] theorem stored_fieldStart : (stored c b).fieldStart = c.fieldStart := rfl
@[simp] theorem stored_bodyStart : (stored c b).bodyStart = c.bodyStart := rfl
@[simp] theorem stored_crcOk : (stored c b).crcOk = c.crcOk := rfl
end

/-- The channel's part of a DATA step (rule R121). -/
def channelStep (cfg : Config) (c : Channel) (d : Dir) (b : Byte) (s e : Offset) : ChannelResult :=
  match c.phase with
  | .idle    => idleStep c d b s e
  | .len     => lenStep cfg c d b s e
  | .appType => headerStep c d b s e (.appType b) .fixed
  | .fixed   => fixedStep c d b s e
  | .msgId   => headerStep c d b s e (.msgId b) .fwVer
  | .fwVer   => headerStep c d b s e (.fwVer b) .applVer
  | .applVer => headerStep c d b s e (.applVer b) .msgType
  | .msgType => msgTypeStep cfg c d b s e
  | .body    => bodyStep cfg c d b s e
  | .crc     => crcStep cfg c d b s e
  | .cks     => cksStep cfg c d b s e

/-- A DATA step is the channel's step committed (rules R8, R121). -/
theorem execData_eq (d : Dir) (b : Byte) (start stop : Offset) (s : State) :
    execData d b start stop s = commit s d (channelStep s.cfg (s.ch d) d b start stop) := by
  unfold execData channelStep
  cases (s.ch d).phase <;> rfl

section
variable (cfg : Config) {c : Channel} (d : Dir) (b : Byte) (s e : Offset)

theorem idleStep_sync : idleStep c d syncByte s e =
    .ok ({ c with buf := c.buf.write 0 syncByte, idx := 1, frameStart := s, phase := .len },
      [stamp d s e (.sync syncByte)]) := by
  simp [idleStep]

variable {b} in
theorem idleStep_skip (h : b ≠ syncByte) : idleStep c d b s e = .ok (c, []) := by
  simp [idleStep, h]

theorem headerStep_eq (p : Payload) (next : Phase) (h : c.idx.toNat < bufferSize) :
    headerStep c d b s e p next = .ok ({ stored c b with phase := next }, [stamp d s e p]) :=
  afterStore_eq _ h

theorem lenStep_eq (h : c.idx.toNat < bufferSize) : lenStep cfg c d b s e =
    .ok ({ stored c b with len := b, bodyLen := bodyLength cfg b, phase := .appType },
      [stamp d s e (.length b)]) :=
  afterStore_eq _ h

theorem fixedStep_first (h : c.idx.toNat = 3) :
    fixedStep c d b s e = .ok ({ stored c b with fieldStart := s }, []) := by
  rw [fixedStep, afterStore_eq _ (by simp [bufferSize, h])]
  simp [offFixed, h]

theorem fixedStep_second (hb : c.idx.toNat < bufferSize) (h : c.idx.toNat ≠ 3) : fixedStep c d b s e =
    .ok ({ stored c b with phase := .msgId },
      [stamp d c.fieldStart e (.fixed ((stored c b).buf.read 3) ((stored c b).buf.read 4))]) := by
  rw [fixedStep, afterStore_eq _ hb]
  simp [offFixed, h]

theorem msgTypeStep_eq (h : c.idx.toNat < bufferSize) : msgTypeStep cfg c d b s e =
    .ok ({ stored c b with phase := if 1 ≤ c.bodyLen.toNat then .body else afterBody cfg },
      [stamp d s e (.msgType b)]) :=
  afterStore_eq _ h

@[simp] theorem markBodyStart_phase (p : Nat) : (markBodyStart p c s).phase = c.phase := by
  unfold markBodyStart; split <;> rfl
@[simp] theorem markBodyStart_buf (p : Nat) : (markBodyStart p c s).buf = c.buf := by
  unfold markBodyStart; split <;> rfl
@[simp] theorem markBodyStart_idx (p : Nat) : (markBodyStart p c s).idx = c.idx := by
  unfold markBodyStart; split <;> rfl
@[simp] theorem markBodyStart_len (p : Nat) : (markBodyStart p c s).len = c.len := by
  unfold markBodyStart; split <;> rfl
@[simp] theorem markBodyStart_bodyLen (p : Nat) : (markBodyStart p c s).bodyLen = c.bodyLen := by
  unfold markBodyStart; split <;> rfl
@[simp] theorem markBodyStart_frameStart (p : Nat) : (markBodyStart p c s).frameStart = c.frameStart := by
  unfold markBodyStart; split <;> rfl
@[simp] theorem markBodyStart_fieldStart (p : Nat) : (markBodyStart p c s).fieldStart = c.fieldStart := by
  unfold markBodyStart; split <;> rfl
@[simp] theorem markBodyStart_crcOk (p : Nat) : (markBodyStart p c s).crcOk = c.crcOk := by
  unfold markBodyStart; split <;> rfl
theorem markBodyStart_bodyStart (p : Nat) : (markBodyStart p c s).bodyStart = if p = 9 then s else c.bodyStart := by
  unfold markBodyStart bodyStartOffset; split <;> rfl

theorem bodyStep_more (hb : c.idx.toNat < bufferSize) (h : c.idx.toNat ≠ 8 + c.bodyLen.toNat) :
    bodyStep cfg c d b s e = .ok (markBodyStart c.idx.toNat (stored c b) s, []) := by
  rw [bodyStep, afterStore_eq _ hb]
  change (if c.idx.toNat = 8 + (markBodyStart c.idx.toNat (stored c b) s).bodyLen.toNat then _ else _) = _
  rw [if_neg (by simpa using h)]

theorem bodyStep_last (hb : c.idx.toNat < bufferSize) (h : c.idx.toNat = 8 + c.bodyLen.toNat) :
    bodyStep cfg c d b s e =
      .ok ({ markBodyStart c.idx.toNat (stored c b) s with phase := afterBody cfg },
        [stamp d (markBodyStart c.idx.toNat (stored c b) s).bodyStart e
          (.body ((stored c b).buf.slice 9 c.bodyLen.toNat))]) := by
  rw [bodyStep, afterStore_eq _ hb]
  change (if c.idx.toNat = 8 + (markBodyStart c.idx.toNat (stored c b) s).bodyLen.toNat then _ else _) = _
  rw [if_pos (by simpa using h)]
  change (match loadBody (markBodyStart c.idx.toNat (stored c b) s) with | .ok body => _ | .error f => _) = _
  rw [loadBody_eq (by simp [bodyStartOffset]; omega)]
  simp [bodyStartOffset]

theorem crcStep_eq (hb : c.idx.toNat < bufferSize) (h : 9 + c.bodyLen.toNat ≤ bufferSize) : crcStep cfg c d b s e =
    .ok ({ stored c b with
        crcOk := crcVerdict (crc8 cfg.crc ((stored c b).buf.slice 9 c.bodyLen.toNat)) b, phase := .cks },
      stamp d s e (.crcValue b (crc8 cfg.crc ((stored c b).buf.slice 9 c.bodyLen.toNat))
        (crcVerdict (crc8 cfg.crc ((stored c b).buf.slice 9 c.bodyLen.toNat)) b)) ::
      errorEvent (!crcVerdict (crc8 cfg.crc ((stored c b).buf.slice 9 c.bodyLen.toNat)) b) d c.frameStart e
        (.errCrc d b (crc8 cfg.crc ((stored c b).buf.slice 9 c.bodyLen.toNat)))) := by
  rw [crcStep, afterStore_eq _ hb]
  change (match loadCrc cfg (stored c b) with | .ok computed => _ | .error f => _) = _
  rw [loadCrc, loadBody_eq (by simpa [bodyStartOffset] using h)]
  simp [bodyStartOffset]

theorem cksStep_eq (hb : c.idx.toNat < bufferSize) (h : 9 + c.bodyLen.toNat ≤ bufferSize)
    (hp : cfg.cksStart.toNat ≤ c.idx.toNat) : cksStep cfg c d b s e =
    .ok (Channel.resetValue,
      (stamp d s e (.cksValue b
          (checksum ((stored c b).buf.slice cfg.cksStart.toNat (c.idx.toNat - cfg.cksStart.toNat)))
          (cksVerdict (checksum ((stored c b).buf.slice cfg.cksStart.toNat
            (c.idx.toNat - cfg.cksStart.toNat))) b)) ::
        errorEvent (!cksVerdict (checksum ((stored c b).buf.slice cfg.cksStart.toNat
            (c.idx.toNat - cfg.cksStart.toNat))) b) d c.frameStart e
          (.errCks d b (checksum ((stored c b).buf.slice cfg.cksStart.toNat
            (c.idx.toNat - cfg.cksStart.toNat))))) ++
        dispatchEvents cfg (frameArgs d (stored c b) ((stored c b).buf.slice 9 c.bodyLen.toNat) e)) := by
  rw [cksStep, afterStore_eq _ hb]
  change (match loadChecksum cfg (stored c b) c.idx.toNat, loadBody (stored c b) with
    | .ok expected, .ok body => _ | .ok _, .error f => _ | .error f, _ => _) = _
  rw [loadChecksum, loadRange_eq (by simp only [bufferSize] at *; omega),
    loadBody_eq (by simpa [bodyStartOffset] using h)]
  simp [bodyStartOffset]
end

/-! ### One step -/

/-- With no transaction presented the machine holds its state. -/
theorem step_nil {s : State} (h : s.input = []) : step s = .next s := by
  rw [step, fetch_nil h]

/-- A step on a transaction that decodes. -/
theorem step_decoded {s : State} {t : Transaction} {rest : List Transaction} {i : Instr} (h : s.input = t :: rest)
    (hd : decode t.encoded = .ok i) (hl : beforeLaunch s i = false) :
    step s = exec i { s with input := rest } := by
  simp [step, fetch_cons h, hd, hl]

/-- A step on a DATA transaction is the channel's step committed. -/
theorem step_data {s : State} {t : Transaction} {rest : List Transaction} (h : s.input = t :: rest)
    (hd : t.hdr.op = 0b01#2) (hl : s.launched = true) :
    step s = commit { s with input := rest } t.hdr.dir
      (channelStep s.cfg (s.ch t.hdr.dir) t.hdr.dir t.hdr.byte t.start t.stop) := by
  have hdec : decode t.encoded = .ok (.data t.hdr.dir t.hdr.byte t.start t.stop) := by
    simp [Transaction.encoded, decode, decodeInput, hd]
  rw [step_decoded h hdec (by simp [beforeLaunch, hl])]
  simp [exec, execData_eq]

end Sys2Proof.Machine
end

