-- ==== Sys2Proof/Tests/Slice0.lean ====
section
/-! SUPPORT. Tests. Expected results come from `spec/95_test_vectors.md` (sections 2.1 to 2.9) and from the words of
`spec/opcode_table.json`; then, for every obligation with hypotheses, witnesses that meet them. -/

namespace Sys2Proof.Tests

open Sys2Proof Sys2Proof.Machine

/-! ### Well-formedness: each check refuses an ill-formed term -/

/-- A frame's operands with a given key and body length. -/
def args (msgType appType : Byte) (n : Nat) : FrameArgs :=
  { dir := .am, appType := appType, msgType := msgType, body := List.replicate n 0, crcOk := true, frameStart := 0,
    stop := 0 }

theorem test_wf_h02Ac_other_appliance : (Instr.h02Ac (args 0x02 0xAD 0)).wf = false := by decide
theorem test_wf_h03Ac_other_type : (Instr.h03Ac (args 0x02 0xAC 0)).wf = false := by decide
theorem test_wf_h02_exact_key : (Instr.h02 (args 0x02 0xAC 0)).wf = false := by decide
theorem test_wf_h03_exact_key : (Instr.h03 (args 0x03 0xAC 0)).wf = false := by decide
theorem test_wf_h04_other_type : (Instr.h04 (args 0x05 0xAC 0)).wf = false := by decide
theorem test_wf_h05_other_type : (Instr.h05 (args 0x04 0xAC 0)).wf = false := by decide
theorem test_wf_h63_other_type : (Instr.h63 (args 0x62 0xAC 0)).wf = false := by decide
theorem test_wf_h81_other_type : (Instr.h81 (args 0x82 0xAC 0)).wf = false := by decide
theorem test_wf_h82_other_type : (Instr.h82 (args 0x81 0xAC 0)).wf = false := by decide
theorem test_wf_hDefault_registered : (Instr.hDefault (args 0x63 0xAC 0)).wf = false := by decide
set_option maxRecDepth 8192 in
theorem test_wf_body_too_long : (Instr.h05 (args 0x05 0xAC 247)).wf = false := by decide
set_option maxRecDepth 8192 in
theorem test_wf_body_longest : (Instr.h05 (args 0x05 0xAC 246)).wf = true := by decide

/-! ### Decoding: words written out from the table's encodings -/

/-- What the decoder gives, none for a rejection. -/
def decoded (w : Encoded) : Option Instr :=
  match decode w with
  | .ok i    => some i
  | .error _ => none

theorem test_decode_other : decoded (.input 0b00101010101 1 2) = some (.other .ma 0x55 1 2) := by decide
theorem test_decode_data : decoded (.input 0b01010101010 1 2) = some (.data .am 0xAA 1 2) := by decide
theorem test_decode_reset : decoded (.input 0b10111111111 1 2) = some (.reset .ma 0xFF 1 2) := by decide
theorem test_decode_reserved_op : decoded (.input 0b11000000000 1 2) = none := by decide
theorem test_decode_idle : decoded (.phase 0b0000 0b01010101010 1 2) = some (.idle .am 0xAA 1 2) := by decide
theorem test_decode_len : decoded (.phase 0b0001 0b01100100010 1 2) = some (.len .ma 0x22 1 2) := by decide
theorem test_decode_appType : decoded (.phase 0b0010 0b01010101100 1 2) = some (.appType .am 0xAC 1 2) := by decide
theorem test_decode_fixed : decoded (.phase 0b0011 0b01000000001 1 2) = some (.fixed .am 0x01 1 2) := by decide
theorem test_decode_msgId : decoded (.phase 0b0100 0b01100000101 1 2) = some (.msgId .ma 0x05 1 2) := by decide
theorem test_decode_fwVer : decoded (.phase 0b0101 0b01100000011 1 2) = some (.fwVer .ma 0x03 1 2) := by decide
theorem test_decode_applVer : decoded (.phase 0b0110 0b01010000000 1 2) = some (.applVer .am 0x80 1 2) := by decide
theorem test_decode_msgType : decoded (.phase 0b0111 0b01001100011 1 2) = some (.msgType .am 0x63 1 2) := by decide
theorem test_decode_body : decoded (.phase 0b1000 0b01111111111 1 2) = some (.body .ma 0xFF 1 2) := by decide
theorem test_decode_crc : decoded (.phase 0b1001 0b01110100111 1 2) = some (.crc .ma 0xA7 1 2) := by decide
theorem test_decode_cks : decoded (.phase 0b1010 0b01111110111 1 2) = some (.cks .ma 0xF7 1 2) := by decide
theorem test_decode_reserved_phases : ∀ code : BitVec 4, 11 ≤ code.toNat →
    decoded (.phase code 0b01111110111 1 2) = none := by decide
theorem test_decode_phase_without_data : decoded (.phase 0b0001 0b10000000000 1 2) = none := by decide

/-- A dispatch word with a one-byte body. -/
def key (k : Key) : Encoded := .dispatch k .ma [0x07] true 1 2

/-- The operands that word carries. -/
def keyArgs (msgType appType : Byte) : FrameArgs := ⟨.ma, appType, msgType, [0x07], true, 1, 2⟩

theorem test_decode_h02Ac : decoded (key 0x02AC) = some (.h02Ac (keyArgs 0x02 0xAC)) := by decide
theorem test_decode_h03Ac : decoded (key 0x03AC) = some (.h03Ac (keyArgs 0x03 0xAC)) := by decide
theorem test_decode_h02 : decoded (key 0x02AD) = some (.h02 (keyArgs 0x02 0xAD)) := by decide
theorem test_decode_h03 : decoded (key 0x03B5) = some (.h03 (keyArgs 0x03 0xB5)) := by decide
theorem test_decode_h04 : decoded (key 0x04AC) = some (.h04 (keyArgs 0x04 0xAC)) := by decide
theorem test_decode_h05 : decoded (key 0x05FF) = some (.h05 (keyArgs 0x05 0xFF)) := by decide
theorem test_decode_h63 : decoded (key 0x63AC) = some (.h63 (keyArgs 0x63 0xAC)) := by decide
theorem test_decode_h81 : decoded (key 0x8100) = some (.h81 (keyArgs 0x81 0x00)) := by decide
theorem test_decode_h82 : decoded (key 0x82AC) = some (.h82 (keyArgs 0x82 0xAC)) := by decide
theorem test_decode_hDefault : decoded (key 0xAC02) = some (.hDefault (keyArgs 0xAC 0x02)) := by decide
/-- The neighbours of every row (95_test_vectors.md 2.7). -/
theorem test_decode_unregistered : ∀ k ∈ [0x0000, 0x01AC, 0x06AC, 0x62AC, 0x64AC, 0x80AC, 0x83AC, 0x99AC, 0xFFAC],
    decodeKey (BitVec.ofNat 16 k) = .hDefault := by decide
set_option maxRecDepth 8192 in
theorem test_decode_body_too_long : decoded (.dispatch 0x05FF .am (List.replicate 247 0) true 1 2) = none := by decide

/-! ### The host's probe -/

theorem test_probe_input : decodeTableWord 11 0x3AA = some (.data .ma 0xAA 0 0) := by decide
theorem test_probe_input_in_bytes : decodeTableWord 16 0x0155 = some (.other .ma 0x55 0 0) := by decide
theorem test_probe_phase : decodeTableWord 8 0x0A = some (.cks .am 0xAA 0 0) := by decide
theorem test_probe_key : decodeTableWord 16 0x02AC = some (.h02Ac ⟨.am, 0xAC, 0x02, [], false, 0, 0⟩) := by decide

/-! ### The integrity units (95_test_vectors.md 2.2, 2.3) -/

set_option maxRecDepth 8192 in
theorem test_crc_check_value : crc8 tiedCrc [0x31, 0x32, 0x33, 0x34, 0x35, 0x36, 0x37, 0x38, 0x39] = 0xA1 := by decide
theorem test_crc_single_bytes : [0x00, 0x01, 0xFF, 0xAA, 0x07, 0x1F].map (fun b => crc8 tiedCrc [b]) =
    [0x00, 0x5E, 0x35, 0xD1, 0x83, 0xDC] := by decide
theorem test_checksums : [[], [0x00], [0x01], [0xFF], [0x80, 0x80], [0x22, 0xAC, 0x05]].map checksum =
    [0x00, 0x00, 0xFF, 0x01, 0x00, 0x2D] := by decide

/-! ### Body lengths (95_test_vectors.md 2.4) -/

theorem test_body_lengths_with_crc : [0, 3, 8, 10, 11, 34, 0xAA, 255].map (fun n => (bodyLength tiedConfig n).toNat) =
    [0, 0, 0, 0, 1, 24, 160, 245] := by decide
theorem test_body_lengths_without_crc :
    [0, 9, 10, 34, 255].map (fun n => (bodyLength { tiedConfig with crcPresent := false } n).toNat) =
      [0, 0, 1, 25, 246] := by decide

/-! ### The field extractor (95_test_vectors.md 2.6) -/

theorem test_setpoints : [0x28, 0x18, 0x00, 0x1F, 0xFF, 0x10, 0x0F, 0xE0, 0x35].map convSetpointX2 =
    [48, 49, 32, 63, 63, 33, 62, 32, 43] := by decide
theorem test_temperatures : [100, 50, 0, 255, 49, 51].map convTempX2 = [50, 0, -50, 205, -1, 1] := by decide
theorem test_modes : [0x20, 0xE0, 0x1F, 0x00, 0xA5].map (fun b => convRaw b 5 3) = [1, 7, 0, 0, 5] := by decide
theorem test_ip : convIpRev4 0x01 0x02 0xA8 0xC0 = 0xC0A80201 ∧ convIpRev4 0x0A 0x00 0x00 0x7F = 0x7F00000A := by
  decide

/-- The codes of rule R82's table. -/
theorem test_conv_codes : [Conv.raw, .setpointX2, .tempX2, .ipRev4].map Conv.code = [0, 1, 2, 3] := by decide

/-! ### Configurations (95_test_vectors.md 2.8, 2.9) -/

theorem test_config_tied_legal : configLegal tiedConfig = true := by decide
theorem test_config_cksStart : [0, 1, 2, 3].map (fun n => configLegal { tiedConfig with cksStart := n }) =
    [false, true, true, false] := by decide
/-- X6. -/
theorem test_config_33_extras :
    configLegal { tiedConfig with acExtra := List.replicate 33 ⟨0x10, 0, .raw, 0, 8⟩ } = false := by decide
/-- X7. -/
theorem test_config_net_fid_in_ac : configLegal { tiedConfig with acExtra := [⟨0x20, 0, .raw, 0, 8⟩] } = false := by
  decide
theorem test_config_repeated_fid :
    configLegal { tiedConfig with netExtra := [⟨0x20, 0, .raw, 0, 8⟩, ⟨0x20, 1, .raw, 0, 8⟩] } = false := by decide
theorem test_config_descriptor_bounds :
    [(⟨0x10, 244, .raw, 7, 1⟩ : FieldDesc), ⟨0x10, 245, .raw, 7, 1⟩, ⟨0x10, 0, .raw, 7, 2⟩, ⟨0x10, 0, .raw, 0, 0⟩,
      ⟨0x10, 241, .ipRev4, 0, 0⟩, ⟨0x10, 242, .ipRev4, 0, 0⟩, ⟨0x10, 0, .tempX2, 1, 0⟩].map descLegal =
      [true, false, false, false, true, false, false] := by decide

/-! ### One step of each instruction -/

/-- The channel `d` and the new events after an instruction. -/
def after (d : Dir) (i : Instr) (s : State) : Option (Channel × List Event) :=
  match exec i s with
  | .next t => some (t.ch d, t.output.drop s.output.length)
  | _       => none

/-- The events of a handler with a body, `crcOk` set, in a frame of direction `d` from offset 100 to 349. -/
def handled (h : Handler) (d : Dir) (msgType appType : Byte) (body : List Byte) : Option (List Event) :=
  (after d (h.instr ⟨d, appType, msgType, body, true, 100, 349⟩) State.reset).map Prod.snd

/-- The one CMD event of such a frame. -/
def cmd (d : Dir) (lane : BitVec 4) (msgType appType : Byte) (m : Meaning) (fields : List Field) : Event :=
  ⟨100, 349, lane, .cmd, .cmd d appType msgType m fields⟩

/-- The bytes of 95_test_vectors.md's P3 frame 1. -/
def p3 : List Byte := [0xAA, 0x0B, 0xAC, 0x00, 0x00, 0x20, 0x00, 0x00, 0x82, 0x00, 0x00, 0xA8]

/-- The buffer after the first `n` bytes of that frame. -/
def p3buf (n : Nat) : Memory := ((p3.take n).zipIdx).foldl (fun m (b, i) => m.write i b) []

/-- Channel 0 with `n` bytes of that frame received, the registers as in the table of 95_test_vectors.md 2.5. -/
def p3ch (phase : Phase) (n : Nat) (len bodyLen : BitVec 8) (fieldStart bodyStart : Offset) (ok : Bool) : Channel :=
  ⟨phase, p3buf n, BitVec.ofNat 9 n, len, bodyLen, 0, fieldStart, bodyStart, ok⟩

/-- A machine after reset with that channel 0. -/
def p3s (c : Channel) : State := State.reset.setCh .am c

theorem test_other_mid_frame : after .am (.other .am 0xAA 5 6) (p3s (p3ch .len 1 0 0 0 0 false)) =
    some (p3ch .len 1 0 0 0 0 false, []) := by decide
theorem test_data_runs_phase : after .am (.data .am 0x0B 10 19) (p3s (p3ch .len 1 0 0 0 0 false)) =
    some (p3ch .appType 2 11 1 0 0 false, [⟨10, 19, 1, .length, .length 0x0B⟩]) := by decide
theorem test_data_other_channel : after .am (.data .ma 0xAA 10 19) (p3s (p3ch .len 1 0 0 0 0 false)) =
    some (p3ch .len 1 0 0 0 0 false, [⟨10, 19, 5, .sync, .sync 0xAA⟩]) := by decide
theorem test_reset_mid_frame : after .am (.reset .ma 0xFF 5 6) (p3s (p3ch .crc 10 11 1 30 90 false)) =
    some (Channel.resetValue, []) := by decide
theorem test_idle_sync : after .am (.idle .am 0xAA 0 9) State.reset =
    some (p3ch .len 1 0 0 0 0 false, [⟨0, 9, 0, .sync, .sync 0xAA⟩]) := by decide
theorem test_idle_other_byte : after .ma (.idle .ma 0x55 0 9) State.reset = some (Channel.resetValue, []) := by decide
theorem test_len : after .am (.len .am 0x0B 10 19) (p3s (p3ch .len 1 0 0 0 0 false)) =
    some (p3ch .appType 2 11 1 0 0 false, [⟨10, 19, 1, .length, .length 0x0B⟩]) := by decide
theorem test_appType : after .am (.appType .am 0xAC 20 29) (p3s (p3ch .appType 2 11 1 0 0 false)) =
    some (p3ch .fixed 3 11 1 0 0 false, [⟨20, 29, 1, .appType, .appType 0xAC⟩]) := by decide
theorem test_fixed_first : after .am (.fixed .am 0x00 30 39) (p3s (p3ch .fixed 3 11 1 0 0 false)) =
    some (p3ch .fixed 4 11 1 30 0 false, []) := by decide
theorem test_fixed_second : after .am (.fixed .am 0x00 40 49) (p3s (p3ch .fixed 4 11 1 30 0 false)) =
    some (p3ch .msgId 5 11 1 30 0 false, [⟨30, 49, 1, .fixed, .fixed 0x00 0x00⟩]) := by decide
theorem test_msgId : after .am (.msgId .am 0x20 50 59) (p3s (p3ch .msgId 5 11 1 30 0 false)) =
    some (p3ch .fwVer 6 11 1 30 0 false, [⟨50, 59, 1, .msgId, .msgId 0x20⟩]) := by decide
theorem test_fwVer : after .am (.fwVer .am 0x00 60 69) (p3s (p3ch .fwVer 6 11 1 30 0 false)) =
    some (p3ch .applVer 7 11 1 30 0 false, [⟨60, 69, 1, .fwVer, .fwVer 0x00⟩]) := by decide
theorem test_applVer : after .am (.applVer .am 0x00 70 79) (p3s (p3ch .applVer 7 11 1 30 0 false)) =
    some (p3ch .msgType 8 11 1 30 0 false, [⟨70, 79, 1, .applVer, .applVer 0x00⟩]) := by decide
theorem test_msgType : after .am (.msgType .am 0x82 80 89) (p3s (p3ch .msgType 8 11 1 30 0 false)) =
    some (p3ch .body 9 11 1 30 0 false, [⟨80, 89, 1, .msgType, .msgType 0x82⟩]) := by decide
theorem test_msgType_empty_body : (after .am (.msgType .am 0x82 80 89) (p3s (p3ch .msgType 8 3 0 30 0 false))).map
    (fun r => r.1.phase) = some .crc := by decide
theorem test_body_last : after .am (.body .am 0x00 90 99) (p3s (p3ch .body 9 11 1 30 0 false)) =
    some (p3ch .crc 10 11 1 30 90 false, [⟨90, 99, 2, .body, .body [0x00]⟩]) := by decide
theorem test_body_more : (after .am (.body .am 0xAA 90 99) (p3s (p3ch .body 9 12 2 30 0 false))).map
    (fun r => (r.1.phase, r.1.idx, r.1.bodyStart, r.2)) = some (.body, 10, 90, []) := by decide
set_option maxRecDepth 8192 in
theorem test_crc_match : after .am (.crc .am 0x00 100 109) (p3s (p3ch .crc 10 11 1 30 90 false)) =
    some (p3ch .cks 11 11 1 30 90 true, [⟨100, 109, 3, .crcValue, .crcValue 0x00 0x00 true⟩]) := by decide
set_option maxRecDepth 8192 in
theorem test_crc_mismatch : (after .am (.crc .am 0x01 100 109) (p3s (p3ch .crc 10 11 1 30 90 false))).map
    (fun r => (r.1.phase, r.1.crcOk, r.2)) = some (.cks, false,
      [⟨100, 109, 3, .crcValue, .crcValue 0x01 0x00 false⟩, ⟨0, 109, 10, .errCrc, .errCrc .am 0x01 0x00⟩]) := by decide
theorem test_cks_mismatch : after .am (.cks .am 0xA8 110 119) (p3s (p3ch .cks 11 11 1 30 90 true)) =
    some (Channel.resetValue, [⟨110, 119, 3, .cksValue, .cksValue 0xA8 0xA7 false⟩,
      ⟨0, 119, 10, .errCks, .errCks .am 0xA8 0xA7⟩,
      ⟨0, 119, 4, .cmd, .cmd .am 0xAC 0x82 .restartResult [(0x05, 0)]⟩]) := by decide
theorem test_cks_match : (after .am (.cks .am 0xA7 110 119) (p3s (p3ch .cks 11 11 1 30 90 true))).map
    (fun r => r.2.map Event.kind) = some [.cksValue, .cmd] := by decide

/-- H6, H7. -/
theorem test_h02Ac : handled .h02Ac .am 0x02 0xAC [0x00, 0xE0] = some [cmd .am 4 0x02 0xAC .acStatus [(0x00, 7)]] ∧
    handled .h02Ac .am 0x02 0xAC [0x00, 0xA0, 0x00, 0x35] =
      some [cmd .am 4 0x02 0xAC .acStatus [(0x00, 5), (0x01, 43)]] := by decide
/-- H10. -/
theorem test_h03Ac : handled .h03Ac .am 0x03 0xAC [0x01] =
    some [cmd .am 4 0x03 0xAC .acQueryResponse [(0x02, 1)]] := by decide
/-- H12. -/
theorem test_h03Ac_without_crc : (after .ma (.h03Ac ⟨.ma, 0xAC, 0x03, [], true, 100, 349⟩)
    { State.reset with cfg := { tiedConfig with crcPresent := false } }).map Prod.snd =
      some [cmd .ma 9 0x03 0xAC .acQuery []] := by decide
/-- H1, H2. -/
theorem test_h02 : handled .h02 .am 0x02 0xB5 [0x01] = some [cmd .am 4 0x02 0xB5 .ctrlResponse []] ∧
    handled .h02 .ma 0x02 0xB5 [0x01] = some [cmd .ma 9 0x02 0xB5 .ctrlCommand []] := by decide
/-- H8, H9. -/
theorem test_h03 : handled .h03 .am 0x03 0x00 [] = some [cmd .am 4 0x03 0x00 .queryResponse []] ∧
    handled .h03 .ma 0x03 0x00 [] = some [cmd .ma 9 0x03 0x00 .query []] := by decide
/-- H13, H14. -/
theorem test_h04 : handled .h04 .am 0x04 0xAC [] = some [cmd .am 4 0x04 0xAC .opparamReport []] ∧
    handled .h04 .ma 0x04 0xAC [] = some [cmd .ma 9 0x04 0xAC .opparamReportUnexpected [],
      ⟨100, 349, 10, .errUnexpectedDir, .errUnexpectedDir .ma 0xAC 0x04⟩] := by decide
/-- H15, H16. -/
theorem test_h05 : handled .h05 .am 0x05 0xAC [] = some [cmd .am 4 0x05 0xAC .opparamReportRespRequired []] ∧
    handled .h05 .ma 0x05 0xAC [] = some [cmd .ma 9 0x05 0xAC .opparamResponse []] := by decide
/-- H17, H19. -/
theorem test_h63 : handled .h63 .am 0x63 0xAC [0x01, 0x02, 0x04, 0x01, 0x02, 0xA8, 0xC0, 0xFF] =
      some [cmd .am 4 0x63 0xAC .netStatus [(0x03, 0xC0A80201)]] ∧
    handled .h63 .ma 0x63 0xAC [0x01, 0x02, 0x04, 0x01, 0x02, 0xA8, 0xC0, 0xFF] =
      some [cmd .ma 9 0x63 0xAC .netQuery []] := by decide
/-- H18. -/
theorem test_h63_short_body : handled .h63 .am 0x63 0xAC [0x01, 0x02, 0x04, 0x01, 0x02, 0xA8] =
    some [cmd .am 4 0x63 0xAC .netStatus []] := by decide
/-- H22, H23. -/
theorem test_h81 : handled .h81 .am 0x81 0xAC [0x01] = some [cmd .am 4 0x81 0xAC .modeSwitchResult [(0x04, 1)]] ∧
    handled .h81 .ma 0x81 0xAC [0x02] = some [cmd .ma 9 0x81 0xAC .modeSwitchRequest [(0x04, 2)]] := by decide
/-- H26, H27. -/
theorem test_h82 : handled .h82 .am 0x82 0xAC [0xFF] = some [cmd .am 4 0x82 0xAC .restartResult [(0x05, 255)]] ∧
    handled .h82 .ma 0x82 0xAC [0x01] = some [cmd .ma 9 0x82 0xAC .restartRequest []] := by decide
/-- H20, H21. -/
theorem test_hDefault : handled .hDefault .am 0x99 0xAC [] =
      some [⟨100, 349, 4, .unrecognized, .unrecognized .am 0xAC 0x99⟩] ∧
    handled .hDefault .ma 0x99 0xAC [] = some [⟨100, 349, 9, .unrecognized, .unrecognized .ma 0xAC 0x99⟩] := by decide

/-- X3: the fixed descriptors come first. -/
theorem test_configured_fields : fieldsOf [0x01, 0x02, 0x04, 0x01, 0x02, 0xA8, 0xC0, 0xFF]
    (netLayout { tiedConfig with netExtra := [⟨0x20, 0, .raw, 0, 8⟩] }) = [(0x03, 0xC0A80201), (0x20, 1)] := by decide

/-- The refusal of a step, if it is refused. -/
def refusal (s : State) : Option Refusal :=
  match step s with
  | .refused r => some r
  | _          => none

theorem test_step_reserved_op : refusal { State.reset with input := [⟨0x7FF, 0, 9⟩] } =
    some (.reservedEncoding .reservedOp) := by decide
theorem test_step_before_reset : refusal { State.reset with input := [⟨0x2AA, 0, 9⟩], launched := false } =
    some .beforeFirstReset := by decide
theorem test_step_illegal_configuration :
    refusal { State.reset with input := [⟨0x400, 0, 9⟩], cfgIn := { tiedConfig with cksStart := 3 } } =
      some .illegalConfiguration := by decide

/-- The kinds of the events of the step that the host's probe runs for a table word. -/
def probed (nbits w : Nat) : Option (List EventKind) :=
  match step (State.reset.withFetchWord nbits w) with
  | .next t => some (t.output.map Event.kind)
  | _       => none

theorem test_withFetchWord_phases : (List.range 11).map (probed 8) = [some [.sync], some [.length], some [.appType],
    some [], some [.msgId], some [.fwVer], some [.applVer], some [.msgType], some [.body],
    some [.crcValue, .errCrc], some [.cksValue, .errCks, .unrecognized]] := by decide
theorem test_withFetchWord_key : probed 16 0x6300 = some [.cksValue, .errCks, .cmd] := by decide
theorem test_withFetchWord_input : probed 11 0x2AA = some [.sync] := by decide

/-! ### Witnesses: for every obligation with hypotheses, states and operands that meet them -/

/-- An instruction completes. -/
def Completes (i : Instr) (s : State) : Prop := ∃ t, exec i s = .next t

theorem witness_DecodeEncodeRoundTrip : (Instr.cks .ma 0xFF 1 2).wf = true ∧ (Instr.h02Ac (args 0x02 0xAC 0)).wf = true ∧
    (Instr.h02 (args 0x02 0xAD 1)).wf = true ∧ (Instr.hDefault (args 0x99 0xAC 1)).wf = true := by decide
theorem witness_DecodedEncodesBack : decode (.input 0b01010101010 1 2) = .ok (.data .am 0xAA 1 2) := rfl
theorem witness_MoreMaskBitsWin : (⟨.h02Ac, 0x02AC, 0xFFFF⟩ : DispatchRow) ∈ dispatchRows ∧
    (0x02AC : Key) &&& 0xFFFF = 0x02AC ∧ (⟨.h02, 0x0200, 0xFF00⟩ : DispatchRow) ∈ dispatchRows ∧
    (0x02AC : Key) &&& 0xFF00 = 0x0200 := by decide
theorem witness_SelectedHandlerOfEveryType : selectHandler 0x02 0xAC = .h02Ac ∧ selectHandler 0x02 0xAB = .h02 ∧
    selectHandler 0x03 0xAC = .h03Ac ∧ selectHandler 0x03 0xAD = .h03 ∧ selectHandler 0x04 0xAC = .h04 ∧
    selectHandler 0x05 0xAC = .h05 ∧ selectHandler 0x63 0xAC = .h63 ∧ selectHandler 0x81 0xAC = .h81 ∧
    selectHandler 0x82 0xAC = .h82 ∧ selectHandler 0x06 0xAC = .hDefault := by decide

/-- A machine after reset with transactions to take. -/
def withInput (ts : List Transaction) : State := { State.reset with input := ts }

theorem witness_StepRunsDecodedInstruction :
    (withInput [⟨0x3AA, 0, 9⟩]).input = ⟨0x3AA, 0, 9⟩ :: [] ∧ decode (.input 0x3AA 0 9) = .ok (.data .ma 0xAA 0 9) ∧
    (withInput [⟨0x3AA, 0, 9⟩]).launched = true := ⟨rfl, rfl, rfl⟩
theorem witness_StepRunsDecodedInstruction_first_reset :
    decode (.input 0x5FF 0 9) = .ok (.reset .ma 0xFF 0 9) ∧ (⟨0x5FF, 0, 9⟩ : Transaction).isReset = true ∧
    { withInput [⟨0x5FF, 0, 9⟩] with launched := false }.input = ⟨0x5FF, 0, 9⟩ :: [] := ⟨rfl, by decide, rfl⟩
theorem witness_StalledMachineHoldsState : (p3s (p3ch .crc 10 11 1 30 90 false)).input = [] := rfl
theorem witness_InputsWithoutMeaningRefused_reserved : (0x600 : Header).toNat / 512 = 3 ∧ (0x7FF : Header).toNat / 512 = 3 ∧
    (withInput [⟨0x600, 0, 9⟩]).input = ⟨0x600, 0, 9⟩ :: [] := by decide
theorem witness_InputsWithoutMeaningRefused_early : (0x000 : Header).toNat / 512 < 2 ∧ (0x3FF : Header).toNat / 512 < 2 ∧
    { withInput [⟨0x3FF, 0, 9⟩] with launched := false }.launched = false := by decide

/-- A configuration at the bounds of every range. -/
def boundary : Config :=
  { tiedConfig with crcPresent := false, cksStart := 2
                    acExtra := [⟨0x10, 244, .raw, 7, 1⟩, ⟨0x18, 0, .raw, 0, 8⟩, ⟨0x16, 244, .tempX2, 0, 0⟩]
                    netExtra := [⟨0x20, 241, .ipRev4, 0, 0⟩, ⟨0x25, 244, .setpointX2, 0, 0⟩] }

theorem boundary_inRange : ConfigInRange boundary := by
  unfold ConfigInRange ExtrasInRange DescInRange; decide

theorem witness_ResetOperation : ConfigInRange { State.reset with cfgIn := boundary }.cfgIn := boundary_inRange
theorem witness_ResetRefusesIllegalConfigurations :
    exec (.reset .am 0 0 0) { State.reset with cfgIn := { tiedConfig with cksStart := 0 } } =
      .refused .illegalConfiguration := rfl
theorem witness_DataIgnoresOtherChannel : Completes (.data .ma 0xAA 0 9) (p3s (p3ch .len 1 0 0 0 0 false)) := ⟨_, rfl⟩
theorem witness_IdleStep : (State.reset.ch .am).buf.wf = true ∧ (0xA9 : Byte) ≠ 0xAA ∧ (0xAB : Byte) ≠ 0xAA ∧
    (0xAA : Byte) = 0xAA := by decide
/-- Also of AppTypeStep, MsgIdFwVerApplVerSteps and MsgTypeStep. -/
theorem witness_LenStep : ((p3s (p3ch .len 1 0 0 0 0 false)).ch .am).buf.wf = true ∧
    ((p3s (p3ch .len 1 0 0 0 0 false)).ch .am).idx.toNat ≤ 255 := by decide

/-- A channel at the last index of the buffer: the checksum byte of the largest frame comes next. -/
def lastByte (phase : Phase) (bodyLen : BitVec 8) : Channel :=
  { Channel.resetValue with phase := phase, buf := [(0, 0xAA), (1, 0xFF)], idx := 255, len := 255, bodyLen := bodyLen }

theorem witness_steps_at_last_index : ((p3s (lastByte .cks 245)).ch .am).buf.wf = true ∧
    ((p3s (lastByte .cks 245)).ch .am).idx.toNat ≤ 255 := by decide
theorem witness_FixedStep : ((p3s (p3ch .fixed 3 11 1 0 0 false)).ch .am).buf.wf = true ∧
    ((p3s (p3ch .fixed 3 11 1 0 0 false)).ch .am).idx.toNat = 3 ∧
    ((p3s (p3ch .fixed 4 11 1 0 0 false)).ch .am).buf.wf = true ∧
    ((p3s (p3ch .fixed 4 11 1 0 0 false)).ch .am).idx.toNat = 4 := by decide
theorem witness_BodyStep : (p3ch .body 9 11 1 30 0 false).buf.wf = true ∧
    (p3ch .body 9 11 1 30 0 false).idx.toNat = 8 + (p3ch .body 9 11 1 30 0 false).bodyLen.toNat ∧
    (p3ch .body 9 12 2 30 0 false).idx.toNat ≠ 8 + (p3ch .body 9 12 2 30 0 false).bodyLen.toNat := by decide
theorem witness_CrcStep : (p3ch .crc 10 11 1 30 90 false).buf.wf = true ∧
    (p3ch .crc 10 11 1 30 90 false).idx.toNat ≤ 255 ∧ 9 + (p3ch .crc 10 11 1 30 90 false).bodyLen.toNat ≤ 256 ∧
    crc8 tiedCrc [0x00] = 0x00 ∧ crc8 tiedCrc [0x00] ≠ 0x01 := by decide
theorem witness_CksStep : (p3ch .cks 11 11 1 30 90 true).buf.wf = true ∧
    (p3ch .cks 11 11 1 30 90 true).idx.toNat ≤ 255 ∧ 9 + (p3ch .cks 11 11 1 30 90 true).bodyLen.toNat ≤ 256 ∧
    State.reset.cfg.cksStart.toNat ≤ (p3ch .cks 11 11 1 30 90 true).idx.toNat ∧
    checksum ((stored (p3ch .cks 11 11 1 30 90 true) 0xA7).buf.slice 1 10) = 0xA7 ∧
    checksum ((stored (p3ch .cks 11 11 1 30 90 true) 0xA8).buf.slice 1 10) ≠ 0xA8 := by decide
theorem witness_ReportedChecksumVerdictIsZeroSum :
    Completes (.cks .am 0xA7 110 119) (p3s (p3ch .cks 11 11 1 30 90 true)) := ⟨_, rfl⟩
theorem witness_StoreBeyondBufferFaults : { lastByte .body 245 with idx := 256 }.phase ≠ .idle ∧
    255 < { lastByte .body 245 with idx := 256 }.idx.toNat := by decide
/-- Also of NetworkStatusFields. -/
theorem witness_UnexpectedDirectionReported : (args 0x04 0xAC 0).dir = .am ∧
    { args 0x04 0xAC 0 with dir := .ma }.dir = .ma := by decide
theorem witness_ExtractFollowsDescriptor : ([0x01] : List Byte).length < 1 + 1 ∧
    ([0x00, 0x20] : List Byte)[1]? = some 0x20 ∧ descMode.conv = .raw ∧ descSetpoint.conv = .setpointX2 ∧
    (⟨0x16, 1, .tempX2, 0, 0⟩ : FieldDesc).conv = .tempX2 ∧ descNetIp.conv = .ipRev4 ∧
    ([0, 0, 0, 0x01, 0x02, 0xA8, 0xC0] : List Byte)[6]? = some 0xC0 ∧
    ([0, 0, 0, 0x01, 0x02, 0xA8] : List Byte).length < 3 + 4 := by decide
theorem witness_ConversionRanges : ∀ k : Nat, 5 ≤ k → k < 5 + 3 → (0x20 : Byte).getLsbD k = (0x3F : Byte).getLsbD k := by
  intro k h1 h2; interval_cases k <;> decide
set_option maxRecDepth 8192 in
theorem witness_ConversionRanges_ip : descNetIp.conv = .ipRev4 ∧
    extract [0, 0, 0, 0xFF, 0xFF, 0xFF, 0xFF] descNetIp = some (0x03, 0xFFFFFFFF) ∧
    extract [0, 0, 0, 0, 0, 0, 0] descNetIp = some (0x03, 0) ∧
    (∀ k, k < 4 → ([0, 0, 0, 1, 2, 3, 4] : List Byte)[3 + k]? = ([9, 9, 9, 1, 2, 3, 4, 9] : List Byte)[3 + k]?) ∧
    convIpRev4 1 2 3 4 = convIpRev4 1 2 3 4 := by decide
theorem witness_ExtractedValuesFitSigned33 : extract [0, 0, 0, 0xFF, 0xFF, 0xFF, 0xFF] descNetIp =
    some (0x03, 0xFFFFFFFF) := by decide
theorem witness_ChecksumBringsSumToZero : byteSum [0x80, 0x80] % 256 = 0 ∧ byteSum [] % 256 = 0 := by decide

/-- A machine with channel 0 where the probe puts it for a phase and channel 1 about to read a length byte. -/
def inPhase (p : Phase) : State :=
  { State.reset with am := channelInPhase tiedConfig p, ma := channelInPhase tiedConfig .len }

/-- A channel's invariant from checks that compute. -/
theorem channel_inv {cfg : Config} {c : Channel} (h1 : c.Positioned cfg) (h2 : c.buf.wf = true)
    (h3 : (c.buf.all fun cell => decide (cell.1 < c.idx.toNat)) = true)
    (h4 : c = Channel.resetValue ∨ c.phase ≠ .idle ∧ c.buf.read 0 = syncByte)
    (h5 : c.phase = .idle ∨ c.phase = .len ∨ c.buf.read 1 = c.len ∧ c.bodyLen = bodyLength cfg c.len)
    (h6 : c.bodyLen.toNat + 8 + trailerLen cfg ≤ 255) (h7 : c.crcOk = false) : c.Inv cfg where
  positioned := h1
  canonical := h2
  below := by simpa using h3
  idleCleared := fun h => h4.elim id fun h' => absurd h h'.1
  syncStored := fun h => h4.elim (fun h' => absurd (by rw [h']; rfl) h) fun h' => h'.2
  lengthStored := fun h h' => h5.elim (fun g => absurd g h) fun g => g.elim (fun k => absurd k h') id
  bodyBound := h6
  crcOkAtCks := fun h => absurd (h7.symm.trans h) (by decide)

theorem channelInPhase_positioned (p : Phase) : (channelInPhase tiedConfig p).Positioned tiedConfig := by
  cases p
  exacts [rfl, rfl, rfl, Or.inl rfl, rfl, rfl, rfl, rfl, ⟨by decide, by decide, by decide⟩, ⟨rfl, rfl⟩, rfl]

theorem channelInPhase_inv (p : Phase) : (channelInPhase tiedConfig p).Inv tiedConfig := by
  have h := channelInPhase_positioned p
  cases p <;> exact channel_inv h (by decide) (by decide) (by decide) (by decide) (by decide) rfl

theorem inPhase_inv (p : Phase) : (inPhase p).Inv where
  legal := test_config_tied_legal
  launched := rfl
  channel d := by
    cases d
    · exact channelInPhase_inv p
    · exact channelInPhase_inv .len

/-- Of every statement whose premises are the invariant and a DATA step that completes: DataCompletes,
EventKindsOfEachStep, DeliveredEventsAreShaped, OffsetsAreCopied, PhaseSequence, and IndexStaysInBuffer. -/
theorem witness_data_steps (p : Phase) : (inPhase p).Inv ∧ ((inPhase p).ch .am).phase = p ∧
    Completes (.data .am 0xAA 0 9) (inPhase p) ∧ Completes (.data .am 0x00 0 9) (inPhase p) :=
  ⟨inPhase_inv p, by cases p <;> rfl, by cases p <;> exact ⟨_, rfl⟩, by cases p <;> exact ⟨_, rfl⟩⟩
theorem witness_StepKeepsInvariant : ({ inPhase .cks with input := [⟨0x2AA, 0, 9⟩] } : State).Inv ∧
    ∃ t, step { inPhase .cks with input := [⟨0x2AA, 0, 9⟩] } = .next t :=
  ⟨⟨(inPhase_inv .cks).legal, rfl, (inPhase_inv .cks).channel⟩, _, rfl⟩
theorem witness_AdmittedStepsNeverStop : ({ inPhase .body with input := [⟨0x5FF, 0, 9⟩] } : State).Inv ∧
    (0x5FF : Header).toNat / 512 ≠ 3 ∧ (0x5FF : Header).toNat / 512 = 2 ∧ ConfigInRange tiedConfig :=
  ⟨⟨(inPhase_inv .body).legal, rfl, (inPhase_inv .body).channel⟩, by decide, by decide,
    by unfold ConfigInRange ExtrasInRange DescInRange; decide⟩
theorem witness_ConfigurationChangesOnlyAtReset :
    ∃ t, step { inPhase .body with input := [⟨0x400, 0, 9⟩], cfgIn := boundary } = .next t ∧ t.cfg = boundary :=
  ⟨_, rfl, rfl⟩
theorem witness_StepsTakeOneTransactionAndAppend :
    ∃ t, step (withInput [⟨0x2AA, 0, 9⟩, ⟨0x20B, 10, 19⟩]) = .next t ∧ t.input = [⟨0x20B, 10, 19⟩] := ⟨_, rfl, rfl⟩
theorem witness_NoMidFrameResync : (inPhase .body).Inv ∧ ((inPhase .body).ch .am).phase ≠ .idle ∧
    Completes (.data .am 0xAA 0 9) (inPhase .body) ∧ (inPhase .cks).Inv ∧ ((inPhase .cks).ch .am).phase = .cks :=
  ⟨inPhase_inv .body, by decide, ⟨_, rfl⟩, inPhase_inv .cks, rfl⟩

/-- Two bytes that belong to no frame. -/
def garbage : List WireByte := [⟨0x55, 0, 9⟩, ⟨0xAB, 10, 19⟩]

theorem witness_GarbageBetweenFramesDropped : (withInput (garbage.map (WireByte.transaction .am))).launched = true ∧
    ((withInput (garbage.map (WireByte.transaction .am))).ch .am).phase = .idle ∧ (∀ x ∈ garbage, x.byte ≠ 0xAA) ∧
    (withInput (garbage.map (WireByte.transaction .am))).input = garbage.map (WireByte.transaction .am) ++ [] := by decide

/-- A channel reading a message id, with a stale byte beyond its index. -/
def staleChannel : Channel := { p3ch .msgId 5 11 1 30 0 false with buf := (p3buf 5).write 200 0x77 }

theorem witness_StaleBytesUnobservable : configLegal State.reset.cfg = true ∧
    (p3ch .msgId 5 11 1 30 0 false).Positioned State.reset.cfg ∧ (p3ch .msgId 5 11 1 30 0 false).buf.wf = true ∧
    staleChannel.buf.wf = true ∧ SameVisible (p3ch .msgId 5 11 1 30 0 false) staleChannel ∧
    (p3ch .msgId 5 11 1 30 0 false).bodyLen.toNat + 8 + trailerLen State.reset.cfg ≤ 255 ∧
    Completes (.data .am 0x20 50 59) (p3s (p3ch .msgId 5 11 1 30 0 false)) := by
  refine ⟨by decide, rfl, by decide, by decide, ⟨rfl, rfl, ⟨rfl, rfl, rfl, rfl, rfl, rfl⟩, ?_⟩,
    by decide, _, rfl⟩
  intro a h
  have h : a < 5 := h
  interval_cases a <;> rfl
theorem witness_EqualReadsEqualBuffers : (Memory.write [] 3 7).wf = true ∧
    ((Memory.write [] 3 7).write 5 0).wf = true ∧
    ∀ a, (Memory.write [] 3 7).read a = ((Memory.write [] 3 7).write 5 0).read a :=
  ⟨by decide, by decide, fun _ => rfl⟩
theorem witness_ChannelIsolation : (inPhase .body).Inv ∧
    ∀ t ∈ [(⟨0x3FF, 0, 9⟩ : Transaction), ⟨0x200, 10, 19⟩, ⟨0x3AC, 20, 29⟩], t.isData = true :=
  ⟨inPhase_inv .body, by decide⟩

/-- The bytes of 95_test_vectors.md's P3 frame 1 with their offsets. -/
def p3wire : List WireByte := p3.zipIdx.map fun (b, k) => ⟨b, BitVec.ofNat 64 (10 * k), BitVec.ofNat 64 (10 * k + 9)⟩

theorem witness_WholeFrameDecoded : (withInput (p3wire.map (WireByte.transaction .ma))).launched = true ∧
    configLegal State.reset.cfg = true ∧ State.reset.ch .ma = Channel.resetValue ∧ (wireAt p3wire 0).byte = 0xAA ∧
    p3wire.length = 9 + declaredBody State.reset.cfg p3wire + trailerLen State.reset.cfg ∧
    (withInput (p3wire.map (WireByte.transaction .ma))).input = p3wire.map (WireByte.transaction .ma) ++ [] := by decide
theorem witness_ResetMakesStreamsIdempotent : ConfigInRange { State.reset with cfgIn := boundary }.cfgIn ∧
    ∀ t ∈ [(⟨0x2AA, 0, 9⟩ : Transaction), ⟨0x155, 10, 19⟩], t.isData = true ∨ t.isOther = true :=
  ⟨boundary_inRange, by decide⟩

end Sys2Proof.Tests
end

/-! PROOFS. The scope of one step: the instruction a step runs (rules R8, R120, R32) and the channel it stays in
(rules R2, R121). -/

namespace Sys2Proof.Machine

open Sys2Proof

/-! ### Only channel `d` takes part in a DATA step -/

section
variable (s : State) (d : Dir) (c c' : Channel) (evs : List Event)

/-- Writes to the two channels commute. -/
theorem State.setCh_other_setCh : (s.setCh d.other c).setCh d c' = (s.setCh d c').setCh d.other c := by
  cases d <;> rfl

/-- A channel write and the events appended to the output commute. -/
theorem State.emit_setCh : (s.setCh d c).emit evs = (s.emit evs).setCh d c := by
  cases d <;> rfl

variable {s d} {t : State} {r : ChannelResult}

theorem commit_ch_other (h : commit s d r = .next t) : t.ch d.other = s.ch d.other := by
  obtain ⟨cd, evs, -, rfl⟩ := commit_next h
  rw [State.emit_ch, State.setCh_ch_other]

theorem commit_setCh_other (h : commit s d r = .next t) :
    commit (s.setCh d.other c) d r = .next (t.setCh d.other c) := by
  obtain ⟨cd, evs, rfl, rfl⟩ := commit_next h
  change Host.Outcome.next (((s.setCh d.other c).setCh d cd).emit evs) = _
  rw [State.setCh_other_setCh, State.emit_setCh]
end

/-- DATA is its channel's step committed: the configuration and channel `d` are all it reads (rule R121). -/
theorem exec_data (d : Dir) (b : Byte) (a e : Offset) (s : State) :
    exec (.data d b a e) s = commit s d (channelStep s.cfg (s.ch d) d b a e) :=
  execData_eq d b a e s

/-- Settles O16: DATA commits a result computed from the configuration and channel `d` alone, and a commit to
channel `d` commutes with a write to the other channel. -/
theorem dataIgnoresOtherChannel : Obligations.DataIgnoresOtherChannel := by
  intro d b a e s t c h
  rw [exec_data] at h
  refine ⟨commit_ch_other h, ?_⟩
  rw [exec_data, State.setCh_cfg, State.setCh_other_ch]
  exact commit_setCh_other c h

/-! ### Which instruction a step runs -/

/-- A launched machine turns no instruction away (rule R32). -/
theorem beforeLaunch_of_launched {s : State} (h : s.launched = true) (i : Instr) : beforeLaunch s i = false := by
  unfold beforeLaunch
  split
  · rfl
  · rw [h, Bool.not_true]

/-- What a RESET transaction decodes to (rule R71). -/
theorem decode_of_isReset {t : Transaction} (h : t.isReset = true) :
    decode t.encoded = .ok (.reset t.hdr.dir t.hdr.byte t.start t.stop) := by
  have hop : t.hdr.op = 0b10#2 := by simpa [Transaction.isReset] using h
  simp [Transaction.encoded, decode, decodeInput, hop]

/-- A decoded transaction is not turned away when the machine is launched or the transaction is a RESET
(rule R32; log entry 6). -/
theorem beforeLaunch_decoded {s : State} {t : Transaction} {i : Instr} (hd : decode t.encoded = .ok i)
    (h : s.launched = true ∨ t.isReset = true) : beforeLaunch s i = false := by
  rcases h with hl | hr
  · exact beforeLaunch_of_launched hl i
  · rw [decode_of_isReset hr] at hd
    cases hd
    rfl

/-- Settles O8: the decoded instruction passes the launch check, so the step runs it. -/
theorem stepRunsDecodedInstruction : Obligations.StepRunsDecodedInstruction := by
  intro s t rest i hin hdec hlaunch
  exact step_decoded hin hdec (beforeLaunch_decoded hdec hlaunch)

end Sys2Proof.Machine

/-! PROOFS. The machine's state: its values after reset (rule R30), the configurations it accepts (rules R27, R83,
R176), what one step can do, the invariant every step keeps (rules R24 to R26, R31, R142), and the bytes no step reads
(rule R25). -/

namespace Sys2Proof.Machine

open Sys2Proof

/-! ### After reset -/

theorem State.reset_ch (d : Dir) : State.reset.ch d = Channel.resetValue := by cases d <;> rfl

/-- Settles O12: either channel after reset is the record of reset values. -/
theorem resetStateValues : Obligations.ResetStateValues := by
  refine ⟨fun d => ?_, rfl, rfl⟩
  rw [State.reset_ch]
  exact ⟨rfl, rfl, fun _ => rfl, rfl, rfl, rfl, rfl, rfl, rfl⟩

/-- The reset values meet the channel's invariant under every configuration, so every reset restores it (rules R30,
R31, R138). -/
theorem Channel.resetValue_inv (cfg : Config) : Channel.resetValue.Inv cfg where
  positioned   := rfl
  canonical    := Memory.wf_nil
  below        := by simp [Channel.resetValue]
  idleCleared  := fun _ => rfl
  syncStored   := fun h => absurd rfl h
  lengthStored := fun h => absurd rfl h
  bodyBound    := by rcases trailerLen_cases cfg with ⟨-, hT, -⟩ | ⟨-, hT, -⟩ <;> simp [hT, Channel.resetValue]
  crcOkAtCks   := nofun

/-- Settles O43: the tied configuration is legal and both channels hold the reset values. -/
theorem resetStateInvariant : Obligations.ResetStateInvariant where
  legal    := by decide
  launched := rfl
  channel  := fun d => by rw [State.reset_ch]; exact Channel.resetValue_inv _

/-! ### Legal configurations -/

theorem descLegal_iff (desc : FieldDesc) : descLegal desc = true ↔ DescInRange desc := by
  cases hconv : desc.conv <;> simp [descLegal, DescInRange, convLastIndex, hconv, BitVec.toNat_eq, and_assoc]

theorem fidsDistinct_iff (extras : List FieldDesc) :
    fidsDistinct extras = true ↔ (extras.map FieldDesc.fid).Nodup := by
  induction extras with
  | nil => simp [fidsDistinct]
  | cons desc rest ih => simp [fidsDistinct, ih]

theorem extrasLegal_iff (lo hi : BitVec 8) (extras : List FieldDesc) :
    extrasLegal lo hi extras = true ↔ ExtrasInRange lo.toNat hi.toNat extras := by
  simp only [extrasLegal, ExtrasInRange, Bool.and_eq_true, decide_eq_true_eq, List.all_eq_true, descLegal_iff,
    fidsDistinct_iff, BitVec.le_def, forall_and, and_assoc]

/-- The executable check accepts the configurations of rules R27, R83 and R176. -/
theorem configLegal_iff (cfg : Config) : configLegal cfg = true ↔ ConfigInRange cfg := by
  simp [configLegal, ConfigInRange, extrasLegal_iff, BitVec.toNat_eq, and_assoc]

theorem exec_reset (d : Dir) (b : Byte) (a e : Offset) (s : State) : exec (.reset d b a e) s =
    if configLegal s.cfgIn then .next (resetChannels s) else .refused .illegalConfiguration := rfl

/-- Settles O14: RESET refuses what the executable check rejects, and the check is the spec's wording. -/
theorem resetRefusesIllegalConfigurations : Obligations.ResetRefusesIllegalConfigurations := by
  intro d b a e s
  rw [exec_reset, ← configLegal_iff]
  cases configLegal s.cfgIn <;> simp

/-! ### What one step can do -/

/-- The operation of a header, read off the header as a number (rule R70). -/
theorem Header.toNat_op (h : Header) : h.op.toNat = h.toNat / 512 := by
  have hlt : h.toNat < 2048 := h.isLt
  rw [Header.op, BitVec.extractLsb'_toNat, Nat.shiftRight_eq_div_pow]
  exact Nat.mod_eq_of_lt (by omega)

theorem Transaction.isReset_iff {tx : Transaction} : tx.isReset = true ↔ tx.hdr.toNat / 512 = 2 := by
  rw [Transaction.isReset, beq_iff_eq, BitVec.toNat_eq, Header.toNat_op]
  rfl

/-- What a transaction decodes to: one instruction for each of the three legal operations (rules R71, R92). -/
theorem decode_transaction {tx : Transaction} {i : Instr} (h : decode tx.encoded = .ok i) :
    (tx.isOther = true ∧ i = .other tx.dir tx.hdr.byte tx.start tx.stop) ∨
    (tx.isData = true ∧ i = .data tx.dir tx.hdr.byte tx.start tx.stop) ∨
    (tx.isReset = true ∧ i = .reset tx.dir tx.hdr.byte tx.start tx.stop) := by
  change decodeInput tx.hdr tx.start tx.stop = .ok i at h
  unfold decodeInput at h
  split at h
  next hop => cases h; exact .inl ⟨by simp [Transaction.isOther, hop], rfl⟩
  next =>
    split at h
    next hop => cases h; exact .inr (.inl ⟨by simp [Transaction.isData, hop], rfl⟩)
    next =>
      split at h
      next hop => cases h; exact .inr (.inr ⟨by simp [Transaction.isReset, hop], rfl⟩)
      next => cases h

/-- Everything a step that answers can do, from `s` to `t` (rules R8, R120 to R122, R138, R140). -/
inductive StepCase (s : State) : State → Prop
  /-- No transaction is presented. -/
  | hold (hin : s.input = []) : StepCase s s
  /-- An OTHER transaction is taken. -/
  | other {tx : Transaction} {rest : List Transaction} (hin : s.input = tx :: rest) (hop : tx.isOther = true)
      (hlaunched : s.launched = true) : StepCase s { s with input := rest }
  /-- A DATA transaction is taken, and its channel's step committed. -/
  | data {tx : Transaction} {rest : List Transaction} {c : Channel} {evs : List Event} (hin : s.input = tx :: rest)
      (hop : tx.isData = true) (hlaunched : s.launched = true)
      (hstep : channelStep s.cfg (s.ch tx.dir) tx.dir tx.hdr.byte tx.start tx.stop = .ok (c, evs)) :
      StepCase s ((({ s with input := rest } : State).setCh tx.dir c).emit evs)
  /-- A RESET transaction is taken, with a legal configuration presented. -/
  | reset {tx : Transaction} {rest : List Transaction} (hin : s.input = tx :: rest) (hop : tx.isReset = true)
      (hlegal : configLegal s.cfgIn = true) : StepCase s (resetChannels { s with input := rest })

/-- What a step on a presented transaction ran. -/
theorem step_next_cons {s t : State} {tx : Transaction} {rest : List Transaction} (hin : s.input = tx :: rest)
    (h : step s = .next t) : ∃ i, decode tx.encoded = .ok i ∧ beforeLaunch s i = false ∧
      exec i { s with input := rest } = .next t := by
  rw [step, fetch_cons hin] at h
  cases hdec : decode tx.encoded with
  | error r => simp [hdec] at h
  | ok i =>
    cases hl : beforeLaunch s i with
    | true => simp [hdec, hl] at h
    | false => exact ⟨i, rfl, hl, by simpa [hdec, hl] using h⟩

/-- A step that answers is one of the four cases. -/
theorem step_cases {s t : State} (h : step s = .next t) : StepCase s t := by
  cases hin : s.input with
  | nil =>
    rw [step_nil hin] at h
    cases h
    exact .hold hin
  | cons tx rest =>
    obtain ⟨i, hdec, hl, hexec⟩ := step_next_cons hin h
    rcases decode_transaction hdec with ⟨hop, rfl⟩ | ⟨hop, rfl⟩ | ⟨hop, rfl⟩
    · cases hexec
      exact .other hin hop (by simpa [beforeLaunch] using hl)
    · rw [exec_data] at hexec
      obtain ⟨c, evs, hstep, rfl⟩ := commit_next hexec
      exact .data hin hop (by simpa [beforeLaunch] using hl) (by simpa using hstep)
    · rw [exec_reset] at hexec
      split at hexec
      next hlegal => cases hexec; exact .reset hin hop hlegal
      next => cases hexec

/-- Settles O51: of the four things a step can do, RESET alone writes the configuration in force. -/
theorem configurationChangesOnlyAtReset : Obligations.ConfigurationChangesOnlyAtReset := by
  intro s t h
  cases step_cases h with
  | hold => exact ⟨rfl, .inl rfl⟩
  | other => exact ⟨rfl, .inl rfl⟩
  | data => exact ⟨by simp, .inl (by simp)⟩
  | reset hin hop => exact ⟨rfl, .inr ⟨rfl, _, _, hin, Transaction.isReset_iff.mp hop⟩⟩

/-! ### The invariant is kept -/

section
variable {cfg : Config} {c c' : Channel} {b : Byte} {evs : List Event}

/-- The index stays inside the frame that the length byte declared (rules R24, R142). -/
theorem Channel.Positioned.idx_le (hpos : c.Positioned cfg) :
    c.idx.toNat ≤ 8 + c.bodyLen.toNat + trailerLen cfg := by
  have hT : 1 ≤ trailerLen cfg ∧ (cfg.crcPresent = true → trailerLen cfg = 2) := by
    unfold trailerLen; split <;> simp [*]
  unfold Channel.Positioned at hpos
  split at hpos <;> omega

theorem Channel.Positioned.idx_lt (hpos : c.Positioned cfg)
    (hbound : c.bodyLen.toNat + 8 + trailerLen cfg ≤ 255) : c.idx.toNat < bufferSize := by
  have hle := hpos.idx_le
  unfold bufferSize
  omega

theorem Channel.Inv.idx_lt (hc : c.Inv cfg) : c.idx.toNat < bufferSize := hc.positioned.idx_lt hc.bodyBound

/-- The sync byte and the length byte are below the index from the third byte on (rule R24). -/
theorem Channel.Positioned.two_le_idx (hpos : c.Positioned cfg) (hidle : c.phase ≠ .idle) (hlen : c.phase ≠ .len) :
    2 ≤ c.idx.toNat := by
  unfold Channel.Positioned at hpos
  split at hpos
  case h_1 hp => exact absurd hp hidle
  case h_2 hp => exact absurd hp hlen
  all_goals omega

theorem Channel.Positioned.idx_pos (hpos : c.Positioned cfg) (hidle : c.phase ≠ .idle) : 0 < c.idx.toNat := by
  by_cases hlen : c.phase = .len
  · have hone : c.idx.toNat = 1 := by simpa [Channel.Positioned, hlen] using hpos
    omega
  · exact Nat.lt_of_lt_of_le Nat.two_pos (hpos.two_le_idx hidle hlen)

theorem Channel.Inv.stored_idx (hc : c.Inv cfg) (b : Byte) : (stored c b).idx.toNat = c.idx.toNat + 1 :=
  idx_succ hc.idx_lt

theorem Channel.Inv.crcOk_eq_false (hc : c.Inv cfg) (hcks : c.phase ≠ .cks) : c.crcOk = false :=
  Bool.eq_false_iff.mpr fun h => hcks (hc.crcOkAtCks h)

/-- STORE in a frame in progress keeps what the invariant says of the buffer; what it says of the position and of the
other registers is left to the step. -/
theorem Channel.Inv.of_stored (hc : c.Inv cfg) (hidle : c.phase ≠ .idle) (hbuf : c'.buf = (stored c b).buf)
    (hidx : c'.idx = (stored c b).idx) (hidle' : c'.phase ≠ .idle) (hpos : c'.Positioned cfg)
    (hlen : c'.buf.read 1 = c'.len ∧ c'.bodyLen = bodyLength cfg c'.len)
    (hbound : c'.bodyLen.toNat + 8 + trailerLen cfg ≤ 255) (hcrc : c'.crcOk = true → c'.phase = .cks) :
    c'.Inv cfg where
  positioned := hpos
  canonical := by rw [hbuf]; exact Memory.wf_write _ _ hc.canonical
  below := by
    rw [hbuf, hidx, hc.stored_idx]
    intro cell hmem
    rcases Memory.mem_write hmem with hold | hnew
    · exact Nat.lt_succ_of_lt (hc.below cell hold)
    · omega
  idleCleared h := absurd h hidle'
  syncStored _ := by
    have hpos0 := hc.positioned.idx_pos hidle
    rw [hbuf, stored_buf, Memory.read_write_other b hc.canonical (by omega)]
    exact hc.syncStored hidle
  lengthStored _ _ := hlen
  bodyBound := hbound
  crcOkAtCks := hcrc

/-- A STORE past the length byte leaves the length byte in the buffer. -/
theorem Channel.Inv.lengthStored_stored (hc : c.Inv cfg) (hidle : c.phase ≠ .idle) (hne : c.phase ≠ .len)
    (b : Byte) : (stored c b).buf.read 1 = c.len ∧ c.bodyLen = bodyLength cfg c.len := by
  have htwo := hc.positioned.two_le_idx hidle hne
  rw [stored_buf, Memory.read_write_other b hc.canonical (by omega)]
  exact hc.lengthStored hidle hne

/-- A step past the length byte that runs STORE and writes no register but the phase and the noted offsets keeps the
invariant when it moves to the phase of its position. -/
theorem Channel.Inv.stored_advance {p : Phase} {field body : Offset} (hc : c.Inv cfg)
    (hmid : c.phase ≠ .idle ∧ c.phase ≠ .len ∧ c.phase ≠ .cks) (hp : p ≠ .idle)
    (hpos : ({ stored c b with phase := p, fieldStart := field, bodyStart := body } : Channel).Positioned cfg) :
    ({ stored c b with phase := p, fieldStart := field, bodyStart := body } : Channel).Inv cfg := by
  obtain ⟨hidle, hlen, hcks⟩ := hmid
  refine hc.of_stored hidle rfl rfl hp hpos (hc.lengthStored_stored hidle hlen b) hc.bodyBound fun h => ?_
  simp [hc.crcOk_eq_false hcks] at h

/-- The phase after the last body byte is the one of that position (rules R24, R125). -/
theorem positioned_afterBody (h : c.idx.toNat = 9 + c.bodyLen.toNat) :
    ({ c with phase := afterBody cfg } : Channel).Positioned cfg := by
  rcases trailerLen_cases cfg with ⟨hcrc, hT, hafter⟩ | ⟨hcrc, hT, hafter⟩ <;> rw [hafter]
  · exact ⟨hcrc, h⟩
  · simpa [Channel.Positioned, hT] using h

theorem afterBody_ne_idle (cfg : Config) : afterBody cfg ≠ .idle := by
  unfold afterBody; split <;> simp

theorem markBodyStart_eq (p : Nat) (s : Offset) :
    markBodyStart p c s = { c with bodyStart := if p = 9 then s else c.bodyStart } := by
  unfold markBodyStart bodyStartOffset; split <;> rfl

variable {d : Dir} {a e : Offset}

/-- The invariant through IDLE: an IDLE channel is at its reset values, so the sync byte is all that its buffer holds
afterwards (rule R126). -/
theorem idleStep_inv (hc : c.Inv cfg) (hp : c.phase = .idle) (h : idleStep c d b a e = .ok (c', evs)) :
    c'.Inv cfg := by
  by_cases hb : b = syncByte
  · subst hb
    rw [idleStep_sync, hc.idleCleared hp] at h
    cases h
    have hbelow : ∀ cell ∈ Memory.write [] 0 syncByte, cell.1 < 1 := by decide
    exact ⟨rfl, Memory.wf_write _ _ Memory.wf_nil, hbelow, nofun, fun _ => rfl, fun _ hlen => absurd rfl hlen,
      (Channel.resetValue_inv cfg).bodyBound, nofun⟩
  · rw [idleStep_skip d a e hb] at h
    cases h
    exact hc

/-- The invariant through LEN: the byte stored at index 1 is the one the length registers are set from (rules R124,
R127). -/
theorem lenStep_inv (hc : c.Inv cfg) (hp : c.phase = .len) (h : lenStep cfg c d b a e = .ok (c', evs)) :
    c'.Inv cfg := by
  have hidx : c.idx.toNat = 1 := by simpa [Channel.Positioned, hp] using hc.positioned
  rw [lenStep_eq cfg d b a e hc.idx_lt] at h
  cases h
  refine hc.of_stored (b := b) (by simp [hp]) rfl rfl nofun ?_ ⟨?_, rfl⟩ ?_ ?_
  · exact (hc.stored_idx b).trans (by omega)
  · have hread := Memory.read_write_same c.idx.toNat b hc.canonical
    exact hidx ▸ hread
  · have hb := b.isLt
    have hT := (Channel.resetValue_inv cfg).bodyBound
    change (bodyLength cfg b).toNat + 8 + trailerLen cfg ≤ 255
    rw [bodyLength_toNat]
    omega
  · simp [hc.crcOk_eq_false (by simp [hp])]

/-- The invariant through a single-byte header step that moves to the phase of the next position (rules R128, R130
to R132). -/
theorem headerStep_inv {p : Payload} {next : Phase} (hc : c.Inv cfg)
    (hmid : c.phase ≠ .idle ∧ c.phase ≠ .len ∧ c.phase ≠ .cks)
    (h : headerStep c d b a e p next = .ok (c', evs)) (hnext : next ≠ .idle)
    (hpos : ({ stored c b with phase := next } : Channel).Positioned cfg) : c'.Inv cfg := by
  rw [headerStep_eq d b a e p next hc.idx_lt] at h
  cases h
  exact hc.stored_advance hmid hnext hpos

theorem fixedStep_inv (hc : c.Inv cfg) (hp : c.phase = .fixed) (h : fixedStep c d b a e = .ok (c', evs)) :
    c'.Inv cfg := by
  have hidx : c.idx.toNat = 3 ∨ c.idx.toNat = 4 := by simpa [Channel.Positioned, hp] using hc.positioned
  have hnext := hc.stored_idx b
  rcases hidx with h3 | h4
  · rw [fixedStep_first d b a e h3] at h
    cases h
    refine hc.stored_advance (by simp [hp]) (by simp [hp]) ?_
    simp only [Channel.Positioned, stored_phase, hp]
    exact .inr (hnext.trans (by omega))
  · rw [fixedStep_second d b a e hc.idx_lt (by omega)] at h
    cases h
    exact hc.stored_advance (by simp [hp]) nofun (hnext.trans (by omega))

theorem msgTypeStep_inv (hc : c.Inv cfg) (hp : c.phase = .msgType) (h : msgTypeStep cfg c d b a e = .ok (c', evs)) :
    c'.Inv cfg := by
  have hidx : c.idx.toNat = 8 := by simpa [Channel.Positioned, hp] using hc.positioned
  have hnext := hc.stored_idx b
  rw [msgTypeStep_eq cfg d b a e hc.idx_lt] at h
  cases h
  refine hc.stored_advance (by simp [hp]) ?_ ?_ <;> split
  next => nofun
  next => exact afterBody_ne_idle cfg
  next hbody => exact ⟨hbody, hnext.ge.trans' (by omega), hnext.le.trans (by simp only [stored_bodyLen]; omega)⟩
  next hbody => exact positioned_afterBody (hnext.trans (by simp only [stored_bodyLen]; omega))

theorem bodyStep_inv (hc : c.Inv cfg) (hp : c.phase = .body) (h : bodyStep cfg c d b a e = .ok (c', evs)) :
    c'.Inv cfg := by
  have hidx : 1 ≤ c.bodyLen.toNat ∧ 9 ≤ c.idx.toNat ∧ c.idx.toNat ≤ 8 + c.bodyLen.toNat := by
    simpa [Channel.Positioned, hp] using hc.positioned
  obtain ⟨hlen, hlo, hhi⟩ := hidx
  have hnext := hc.stored_idx b
  by_cases hlast : c.idx.toNat = 8 + c.bodyLen.toNat
  · rw [bodyStep_last cfg d b a e hc.idx_lt hlast, markBodyStart_eq] at h
    cases h
    exact hc.stored_advance (by simp [hp]) (afterBody_ne_idle cfg)
      (positioned_afterBody (hnext.trans (by simp only [stored_bodyLen]; omega)))
  · rw [bodyStep_more cfg d b a e hc.idx_lt hlast, markBodyStart_eq] at h
    cases h
    refine hc.stored_advance (by simp [hp]) (by simp [hp]) ?_
    simp only [Channel.Positioned, stored_phase, hp, hnext, stored_bodyLen]
    omega

/-- The invariant through CRC, the one step that sets `crcOk` (rules R26, R135). -/
theorem crcStep_inv (hc : c.Inv cfg) (hp : c.phase = .crc) (h : crcStep cfg c d b a e = .ok (c', evs)) :
    c'.Inv cfg := by
  have hidx : cfg.crcPresent = true ∧ c.idx.toNat = 9 + c.bodyLen.toNat := by
    simpa [Channel.Positioned, hp] using hc.positioned
  obtain ⟨hcrc, hidx⟩ := hidx
  have hnext := hc.stored_idx b
  have hlt : c.idx.toNat < 256 := hc.idx_lt
  rw [crcStep_eq cfg d b a e hlt (show _ ≤ 256 by omega)] at h
  cases h
  refine hc.of_stored (b := b) (by simp [hp]) rfl rfl nofun ?_
    (hc.lengthStored_stored (by simp [hp]) (by simp [hp]) b) hc.bodyBound fun _ => rfl
  simp only [Channel.Positioned, hnext, stored_bodyLen, trailerLen, hcrc, hidx, if_true]

/-- CKS ends the frame with the channel's reset (rule R31). -/
theorem cksStep_channel (h : cksStep cfg c d b a e = .ok (c', evs)) : c' = Channel.resetValue := by
  obtain ⟨-, h⟩ := afterStore_ok h
  split at h <;> cases h
  rfl

/-- The channel's part of a DATA step keeps the channel's invariant. -/
theorem channelStep_inv (hc : c.Inv cfg) (h : channelStep cfg c d b a e = .ok (c', evs)) : c'.Inv cfg := by
  have hpos := hc.positioned
  have hnext := hc.stored_idx b
  unfold channelStep at h
  unfold Channel.Positioned at hpos
  cases hp : c.phase <;> simp only [hp] at h hpos
  case idle => exact idleStep_inv hc hp h
  case len => exact lenStep_inv hc hp h
  case appType => exact headerStep_inv hc (by simp [hp]) h nofun (.inl (hnext.trans (by omega)))
  case fixed => exact fixedStep_inv hc hp h
  case msgId => exact headerStep_inv hc (by simp [hp]) h nofun (hnext.trans (by omega))
  case fwVer => exact headerStep_inv hc (by simp [hp]) h nofun (hnext.trans (by omega))
  case applVer => exact headerStep_inv hc (by simp [hp]) h nofun (hnext.trans (by omega))
  case msgType => exact msgTypeStep_inv hc hp h
  case body => exact bodyStep_inv hc hp h
  case crc => exact crcStep_inv hc hp h
  case cks => exact cksStep_channel h ▸ Channel.resetValue_inv cfg
end

theorem Dir.eq_or_eq_other (d d' : Dir) : d' = d ∨ d' = d.other := by cases d <;> cases d' <;> decide

/-- A channel write and a new invariant of that channel give back the machine's (rule R121). -/
theorem State.Inv.setCh_emit {s : State} (hs : s.Inv) {d : Dir} {c : Channel} (hc : c.Inv s.cfg)
    (evs : List Event) : ((s.setCh d c).emit evs).Inv where
  legal := by simpa using hs.legal
  launched := by simpa using hs.launched
  channel d' := by
    simp only [State.emit_ch, State.emit_cfg, State.setCh_cfg]
    rcases Dir.eq_or_eq_other d d' with rfl | rfl
    · simpa using hc
    · simpa using hs.channel d.other

/-- Taking a transaction from the input keeps the invariant, which does not speak of the ports. -/
theorem State.Inv.input {s : State} (hs : s.Inv) (rest : List Transaction) :
    ({ s with input := rest } : State).Inv where
  legal := hs.legal
  launched := hs.launched
  channel d := by simpa using hs.channel d

/-- Settles O44: the four things a step can do keep the invariant; DATA by its channel's step, RESET by the reset
values and the check of the configuration it samples. -/
theorem stepKeepsInvariant : Obligations.StepKeepsInvariant := by
  intro s t hs h
  cases step_cases h with
  | hold => exact hs
  | other => exact hs.input _
  | @data tx rest c evs _ _ _ hstep =>
    exact (hs.input rest).setCh_emit (channelStep_inv (hs.channel tx.dir) hstep) evs
  | reset _ _ hlegal =>
    exact ⟨hlegal, rfl, fun d => by rw [resetChannels_ch]; exact Channel.resetValue_inv _⟩

/-! ### Bytes at or above the index are not read -/

section
variable {c c' : Channel} {m : Memory}

/-- Channels that a run cannot tell apart differ in their buffers alone. -/
theorem SameVisible.eq_withBuf (h : SameVisible c c') : c' = { c with buf := c'.buf } := by
  obtain ⟨hphase, hidx, ⟨hlen, hbody, hframe, hfield, hstart, hcrc⟩, -⟩ := h
  cases c'
  simp_all

/-- Replacing the buffer by one that agrees below the index cannot be seen. -/
theorem SameVisible.withBuf (h : ∀ x, x < c.idx.toNat → m.read x = c.buf.read x) :
    SameVisible c { c with buf := m } :=
  ⟨rfl, rfl, ⟨rfl, rfl, rfl, rfl, rfl, rfl⟩, h⟩

theorem SameVisible.refl (c : Channel) : SameVisible c c := .withBuf fun _ _ => rfl

/-- A range below the index reads the same. -/
theorem SameVisible.slice_eq (h : SameVisible c c') {lo n : Nat} (hn : lo + n ≤ c.idx.toNat) :
    c'.buf.slice lo n = c.buf.slice lo n :=
  Memory.slice_congr fun x _ hx => h.bytes x (by omega)

/-- After STORE the agreement reaches the byte stored (rules R25, R123). -/
theorem SameVisible.stored_withBuf (h : SameVisible c { c with buf := m }) (hwf : c.buf.wf = true)
    (hmwf : m.wf = true) (hi : c.idx.toNat < bufferSize) (b : Byte) :
    SameVisible (stored c b) (stored { c with buf := m } b) := by
  refine SameVisible.withBuf fun x hx => ?_
  have hx : x < c.idx.toNat + 1 := idx_succ hi ▸ hx
  rw [stored_buf, Memory.read_write _ _ _ hwf, Memory.read_write _ _ _ hmwf]
  split
  next => rfl
  next hne => exact h.bytes x (Nat.lt_of_le_of_ne (Nat.lt_succ_iff.mp hx) (Ne.symm hne))

/-- If the first result is an answer, the second is one with the same events and a channel that a run cannot tell from
the first one's. -/
def AnswersAlike (r r' : ChannelResult) : Prop :=
  ∀ x evs, r = .ok (x, evs) → ∃ x', r' = .ok (x', evs) ∧ SameVisible x x'

theorem AnswersAlike.of_ok {r r' : ChannelResult} {x x' : Channel} {evs : List Event} (h : r = .ok (x, evs))
    (h' : r' = .ok (x', evs)) (hv : SameVisible x x') : AnswersAlike r r' := by
  intro y evs' hy
  rw [h] at hy
  cases hy
  exact ⟨x', h', hv⟩
end

section
variable {cfg : Config} {c : Channel} {m : Memory} {d : Dir} {b : Byte} {a e : Offset}

/-- The sync byte goes to index 0 of either buffer, and any other byte leaves both as they are (rule R126). -/
theorem idleStep_alike (hv : SameVisible c { c with buf := m }) (hwf : c.buf.wf = true) (hmwf : m.wf = true) :
    AnswersAlike (idleStep c d b a e) (idleStep { c with buf := m } d b a e) := by
  by_cases hb : b = syncByte
  · subst hb
    refine .of_ok (idleStep_sync d a e) (idleStep_sync d a e) (.withBuf fun x hx => ?_)
    obtain rfl : x = 0 := Nat.lt_one_iff.mp hx
    exact (Memory.read_write_same 0 _ hmwf).trans (Memory.read_write_same 0 _ hwf).symm
  · exact .of_ok (idleStep_skip d a e hb) (idleStep_skip d a e hb) hv

variable (hi : c.idx.toNat < bufferSize) (hs : SameVisible (stored c b) (stored { c with buf := m } b))
include hi hs

theorem read_stored_withBuf {x : Nat} (hx : x ≤ c.idx.toNat) :
    (stored { c with buf := m } b).buf.read x = (stored c b).buf.read x :=
  hs.bytes x ((Nat.lt_succ_of_le hx).trans_eq (idx_succ hi).symm)

theorem slice_stored_withBuf {lo n : Nat} (hn : lo + n ≤ c.idx.toNat + 1) :
    (stored { c with buf := m } b).buf.slice lo n = (stored c b).buf.slice lo n :=
  hs.slice_eq (hn.trans (idx_succ hi).ge)

theorem lenStep_alike : AnswersAlike (lenStep cfg c d b a e) (lenStep cfg { c with buf := m } d b a e) :=
  .of_ok (lenStep_eq cfg d b a e hi) (lenStep_eq cfg d b a e hi) (.withBuf hs.bytes)

theorem headerStep_alike (p : Payload) (next : Phase) :
    AnswersAlike (headerStep c d b a e p next) (headerStep { c with buf := m } d b a e p next) :=
  .of_ok (headerStep_eq d b a e p next hi) (headerStep_eq d b a e p next hi) (.withBuf hs.bytes)

/-- The pair that FIXED reports is at 3 and 4, the second of them the byte just stored (rule R129). -/
theorem fixedStep_alike (hidx : c.idx.toNat = 3 ∨ c.idx.toNat = 4) :
    AnswersAlike (fixedStep c d b a e) (fixedStep { c with buf := m } d b a e) := by
  rcases hidx with h3 | h4
  · exact .of_ok (fixedStep_first d b a e h3) (fixedStep_first d b a e h3) (.withBuf hs.bytes)
  · have hne : c.idx.toNat ≠ 3 := by omega
    have heq := fixedStep_second (c := { c with buf := m }) d b a e hi hne
    rw [read_stored_withBuf hi hs (x := 3) (by omega), read_stored_withBuf hi hs (x := 4) (by omega)] at heq
    exact .of_ok (fixedStep_second d b a e hi hne) heq (.withBuf hs.bytes)

theorem msgTypeStep_alike : AnswersAlike (msgTypeStep cfg c d b a e) (msgTypeStep cfg { c with buf := m } d b a e) :=
  .of_ok (msgTypeStep_eq cfg d b a e hi) (msgTypeStep_eq cfg d b a e hi) (.withBuf hs.bytes)

/-- The body that BODY reports ends with the byte just stored (rule R134). -/
theorem bodyStep_alike : AnswersAlike (bodyStep cfg c d b a e) (bodyStep cfg { c with buf := m } d b a e) := by
  by_cases hlast : c.idx.toNat = 8 + c.bodyLen.toNat
  · have h := bodyStep_last cfg d b a e hi hlast
    have h' := bodyStep_last (c := { c with buf := m }) cfg d b a e hi hlast
    rw [slice_stored_withBuf hi hs (n := c.bodyLen.toNat) (by omega)] at h'
    rw [markBodyStart_eq] at h h'
    exact .of_ok h h' (.withBuf hs.bytes)
  · have h := bodyStep_more cfg d b a e hi hlast
    have h' := bodyStep_more (c := { c with buf := m }) cfg d b a e hi hlast
    rw [markBodyStart_eq] at h h'
    exact .of_ok h h' (.withBuf hs.bytes)

/-- The body that CRC reads ends below the byte just stored (rule R135). -/
theorem crcStep_alike (hidx : c.idx.toNat = 9 + c.bodyLen.toNat) :
    AnswersAlike (crcStep cfg c d b a e) (crcStep cfg { c with buf := m } d b a e) := by
  have hbody : 9 + c.bodyLen.toNat ≤ bufferSize := hidx ▸ hi.le
  have heq := crcStep_eq (c := { c with buf := m }) cfg d b a e hi hbody
  rw [slice_stored_withBuf hi hs (n := c.bodyLen.toNat) (by omega)] at heq
  exact .of_ok (crcStep_eq cfg d b a e hi hbody) heq (.withBuf hs.bytes)

/-- CKS reads the covered bytes, the body and the two type bytes, all below the checksum byte (rules R106, R136,
R161). -/
theorem cksStep_alike (hidx : 9 + c.bodyLen.toNat ≤ c.idx.toNat) (hstart : cfg.cksStart.toNat ≤ c.idx.toNat) :
    AnswersAlike (cksStep cfg c d b a e) (cksStep cfg { c with buf := m } d b a e) := by
  have hbody : 9 + c.bodyLen.toNat ≤ bufferSize := hidx.trans hi.le
  have hargs (body : List Byte) : frameArgs d (stored { c with buf := m } b) body e =
      frameArgs d (stored c b) body e := by
    have happ : offAppType ≤ c.idx.toNat := hidx.trans' (Nat.le_add_right_of_le (by decide))
    have hmsg : offMsgType ≤ c.idx.toNat := hidx.trans' (Nat.le_add_right_of_le (by decide))
    rw [frameArgs, read_stored_withBuf hi hs happ, read_stored_withBuf hi hs hmsg]
    rfl
  have heq := cksStep_eq (c := { c with buf := m }) cfg d b a e hi hbody hstart
  rw [slice_stored_withBuf hi hs (lo := 9) (n := c.bodyLen.toNat) (by omega), hargs,
    slice_stored_withBuf hi hs (n := c.idx.toNat - cfg.cksStart.toNat) (by omega)] at heq
  exact .of_ok (cksStep_eq cfg d b a e hi hbody hstart) heq (.refl _)

end

/-- Every phase step reads the buffer below the new index alone, so it answers the same events for two buffers that
agree below the index, and leaves them agreeing (rules R24, R25). -/
theorem channelStep_alike {cfg : Config} {c c' : Channel} (hcfg : configLegal cfg = true) (hpos : c.Positioned cfg)
    (hbound : c.bodyLen.toNat + 8 + trailerLen cfg ≤ 255) (hwf : c.buf.wf = true) (hwf' : c'.buf.wf = true)
    (hv : SameVisible c c') (d : Dir) (b : Byte) (a e : Offset) :
    AnswersAlike (channelStep cfg c d b a e) (channelStep cfg c' d b a e) := by
  obtain ⟨m, hc'⟩ : ∃ m, c' = { c with buf := m } := ⟨_, hv.eq_withBuf⟩
  have hi := hpos.idx_lt hbound
  have hs : SameVisible (stored c b) (stored { c with buf := m } b) := by
    subst hc'
    exact hv.stored_withBuf hwf hwf' hi b
  unfold channelStep
  rw [hv.phase]
  unfold Channel.Positioned at hpos
  cases hp : c.phase <;> simp only [hp] at hpos ⊢ <;> subst hc'
  case idle => exact idleStep_alike hv hwf hwf'
  case len => exact lenStep_alike hi hs
  case appType => exact headerStep_alike hi hs _ _
  case fixed => exact fixedStep_alike hi hs hpos
  case msgId => exact headerStep_alike hi hs _ _
  case fwVer => exact headerStep_alike hi hs _ _
  case applVer => exact headerStep_alike hi hs _ _
  case msgType => exact msgTypeStep_alike hi hs
  case body => exact bodyStep_alike hi hs
  case crc => exact crcStep_alike hi hs hpos.2
  case cks =>
    have hstart := ((configLegal_iff cfg).mp hcfg).1
    exact cksStep_alike hi hs (by omega) (by omega)

/-- Settles O56: DATA commits its channel's step, which the bytes at or above the index cannot change. -/
theorem staleBytesUnobservable : Obligations.StaleBytesUnobservable := by
  intro d b a e s t c hcfg hpos hwf hwf' hv hbound h
  rw [exec_data] at h
  obtain ⟨x, evs, hx, rfl⟩ := commit_next h
  obtain ⟨x', hx', hv'⟩ := channelStep_alike hcfg hpos hbound hwf hwf' hv d b a e x evs hx
  refine ⟨((s.setCh d c).setCh d x').emit evs, ?_, by simp, by simpa using hv'⟩
  rw [exec_data, State.setCh_cfg, State.setCh_ch, hx']
  rfl

end Sys2Proof.Machine

/-! PROOFS. The frame buffer and its channel: equal reads are equal data (rule R50), a STORE past the buffer stops
(log entry 7), a step takes one transaction and appends (rules R61, R213), and the channels' isolation under any
interleaving (rules R62, R139). -/

namespace Sys2Proof.Machine

open Sys2Proof

/-! ### Equal reads are equal data -/

section
variable {lo k : Nat} {v : Byte} {m m' rest : Memory}

theorem Memory.wfFrom_cons_iff : Memory.wfFrom lo ((k, v) :: rest) = true ↔
    lo ≤ k ∧ v ≠ unlistedByte ∧ Memory.wfFrom (k + 1) rest = true := by
  simp [Memory.wfFrom, and_assoc]

theorem Memory.read_head : Memory.read ((k, v) :: rest) k = v := if_pos rfl

/-- A listed byte is seen by a read, so a buffer that lists nothing up to that index reads differently there. -/
theorem Memory.read_head_ne (hwf : Memory.wfFrom lo ((k, v) :: rest) = true) (hm : Memory.wfFrom (k + 1) m = true) :
    Memory.read ((k, v) :: rest) k ≠ m.read k := by
  rw [Memory.read_head, Memory.read_below hm k.lt_succ_self]
  exact (Memory.wfFrom_cons_iff.mp hwf).2.1

/-- The tails of two buffers with the same head cell read the same when the buffers do. -/
theorem Memory.read_tail_eq (hrest : Memory.wfFrom (k + 1) rest = true) (hm : Memory.wfFrom (k + 1) m = true)
    (h : ∀ a, Memory.read ((k, v) :: rest) a = Memory.read ((k, v) :: m) a) (a : Nat) : rest.read a = m.read a := by
  rcases Nat.lt_or_ge k a with hlt | hle
  · simpa [Memory.read_cons, hlt.ne] using h a
  · rw [Memory.read_below hrest (Nat.lt_succ_of_le hle), Memory.read_below hm (Nat.lt_succ_of_le hle)]

/-- Canonical buffers that read the same list the same cells. -/
theorem Memory.eq_of_read_eq (hm : Memory.wfFrom lo m = true) (hm' : Memory.wfFrom lo m' = true)
    (h : ∀ a, m.read a = m'.read a) : m = m' := by
  induction m generalizing lo m' with
  | nil =>
    cases m' with
    | nil => rfl
    | cons cell' rest' => exact absurd (h cell'.1).symm (Memory.read_head_ne (m := []) hm' rfl)
  | cons cell rest ih =>
    obtain ⟨k, v⟩ := cell
    cases m' with
    | nil => exact absurd (h k) (Memory.read_head_ne (m := []) hm rfl)
    | cons cell' rest' =>
      obtain ⟨k', v'⟩ := cell'
      obtain ⟨-, hv, hrest⟩ := Memory.wfFrom_cons_iff.mp hm
      obtain ⟨-, hv', hrest'⟩ := Memory.wfFrom_cons_iff.mp hm'
      rcases Nat.lt_trichotomy k k' with hlt | rfl | hgt
      · exact absurd (h k) (Memory.read_head_ne hm (Memory.wfFrom_cons_iff.mpr ⟨hlt, hv', hrest'⟩))
      · have hhead : v = v' := by simpa [Memory.read_head] using h k
        subst hhead
        rw [ih hrest hrest' (Memory.read_tail_eq hrest hrest' h)]
      · exact absurd (h k').symm (Memory.read_head_ne hm' (Memory.wfFrom_cons_iff.mpr ⟨hgt, hv, hrest⟩))
end

/-- Settles O57: induction over the listed cells; the lower of two different head indices would read differently. -/
theorem equalReadsEqualBuffers : Obligations.EqualReadsEqualBuffers := by
  intro m m' hm hm' h
  exact Memory.eq_of_read_eq hm hm' h

/-! ### A STORE past the last buffer byte -/

/-- A step that runs STORE first stops when STORE does. -/
theorem afterStore_fault {c : Channel} {b : Byte} (k : Nat → Channel → ChannelResult)
    (h : ¬ c.idx.toNat < bufferSize) : afterStore c b k = .error .bufferIndex := by
  rw [afterStore, store_fault h]

/-- Every phase step but IDLE's runs STORE first (rules R123, R127 to R136). -/
theorem channelStep_eq_afterStore {c : Channel} (h : c.phase ≠ .idle) (cfg : Config) (d : Dir) (b : Byte)
    (a e : Offset) : ∃ k, channelStep cfg c d b a e = afterStore c b k := by
  unfold channelStep
  cases hp : c.phase
  case idle => exact absurd hp h
  all_goals exact ⟨_, rfl⟩

/-- Settles O27: outside IDLE the channel's step begins with the STORE that stops. -/
theorem storeBeyondBufferFaults : Obligations.StoreBeyondBufferFaults := by
  intro d b a e s hidle hidx
  obtain ⟨k, hk⟩ := channelStep_eq_afterStore hidle s.cfg d b a e
  rw [exec_data, hk, afterStore_fault k (by unfold bufferSize; omega)]
  rfl

/-! ### One transaction taken, events appended -/

/-- Settles O52: a read of the four things a step can do. -/
theorem stepsTakeOneTransactionAndAppend : Obligations.StepsTakeOneTransactionAndAppend := by
  intro s t h
  cases step_cases h with
  | hold hin => exact ⟨by simp [hin], by simp⟩
  | other hin => exact ⟨by simp [hin], by simp⟩
  | data hin => exact ⟨by simp [hin], by simp⟩
  | reset hin => exact ⟨by simp [hin], by simp⟩

/-! ### Whose events a step emits -/

/-- Every event of the list is one of channel `d` and of no other (rules R139, R216). -/
def OwnEvents (d : Dir) (evs : List Event) : Prop := ∀ ev ∈ evs, ∀ d', ev.ofChannel d' = decide (d' = d)

section
variable {d d' : Dir} {a e : Offset} {p : Payload} {evs evs' : List Event}

theorem EventKind.laneGroup_le {kind : EventKind} {g : Nat} (h : kind.laneGroup = some g) : g ≤ 4 := by
  cases kind <;> cases h <;> decide

/-- The lane tells the channel of a stamped event, and on the shared error lane the payload's direction does
(rules R88, R216). -/
theorem ofChannel_stamp (h : p.kind.laneGroup = none → p.dir? = some d) (d' : Dir) :
    (stamp d a e p).ofChannel d' = decide (d' = d) := by
  cases hg : p.kind.laneGroup with
  | none =>
    have hlane : p.kind.lane d = errorLane := by simp [EventKind.lane, hg]
    simp only [Event.ofChannel, stamp_lane, stamp_payload, hlane, h hg]
    cases d <;> cases d' <;> decide
  | some g =>
    have hle := EventKind.laneGroup_le hg
    have hlane : p.kind.lane d = BitVec.ofNat 4 (5 * d.toNat + g) := by simp [EventKind.lane, hg]
    simp only [Event.ofChannel, stamp_lane, stamp_payload, hlane]
    interval_cases g <;> cases d <;> cases d' <;> simp [Dir.toNat, errorLane]

theorem OwnEvents.nil : OwnEvents d [] := by simp [OwnEvents]

theorem OwnEvents.cons_stamp (h : p.kind.laneGroup = none → p.dir? = some d) (hevs : OwnEvents d evs) :
    OwnEvents d (stamp d a e p :: evs) :=
  List.forall_mem_cons.mpr ⟨ofChannel_stamp h, hevs⟩

theorem OwnEvents.stamp (h : p.kind.laneGroup = none → p.dir? = some d) : OwnEvents d [stamp d a e p] :=
  .cons_stamp h .nil

theorem OwnEvents.append (h : OwnEvents d evs) (h' : OwnEvents d evs') : OwnEvents d (evs ++ evs') :=
  List.forall_mem_append.mpr ⟨h, h'⟩

theorem OwnEvents.errorEvent (failed : Bool) (h : p.dir? = some d) : OwnEvents d (errorEvent failed d a e p) := by
  cases failed
  · exact .nil
  · exact .stamp fun _ => h

theorem OwnEvents.filter_self (h : OwnEvents d evs) : evs.filter (Event.ofChannel d) = evs :=
  List.filter_eq_self.mpr fun ev hev => by simp [h ev hev]

theorem OwnEvents.filter_of_ne (h : OwnEvents d evs) (hne : d' ≠ d) : evs.filter (Event.ofChannel d') = [] :=
  List.filter_eq_nil_iff.mpr fun ev hev => by simp [h ev hev, hne]

/-- A handler's events carry the frame's direction (rules R177, R184, R189). -/
theorem handlerEvents_own (cfg : Config) (h : Handler) (f : FrameArgs) : OwnEvents f.dir (handlerEvents cfg h f) := by
  cases h
  case h04 => exact .cons_stamp nofun (.errorEvent _ rfl)
  case h63 =>
    change OwnEvents f.dir (eventsH63 cfg f)
    unfold eventsH63
    split <;> exact .stamp nofun
  case h82 =>
    change OwnEvents f.dir (eventsH82 f)
    unfold eventsH82
    split <;> exact .stamp nofun
  all_goals exact .stamp nofun

theorem dispatchEvents_own (cfg : Config) (f : FrameArgs) : OwnEvents f.dir (dispatchEvents cfg f) :=
  handlerEvents_own cfg _ f

section
variable {cfg : Config} {c c' : Channel} {b : Byte}

theorem idleStep_own (h : idleStep c d b a e = .ok (c', evs)) : OwnEvents d evs := by
  unfold idleStep at h
  split at h <;> cases h
  · exact .stamp nofun
  · exact .nil

theorem lenStep_own (h : lenStep cfg c d b a e = .ok (c', evs)) : OwnEvents d evs := by
  obtain ⟨-, h⟩ := afterStore_ok h
  cases h
  exact .stamp nofun

theorem headerStep_own {next : Phase} (h : headerStep c d b a e p next = .ok (c', evs))
    (hp : p.kind.laneGroup = none → p.dir? = some d) : OwnEvents d evs := by
  obtain ⟨-, h⟩ := afterStore_ok h
  cases h
  exact .stamp hp

theorem fixedStep_own (h : fixedStep c d b a e = .ok (c', evs)) : OwnEvents d evs := by
  obtain ⟨-, h⟩ := afterStore_ok h
  split at h <;> cases h
  · exact .nil
  · exact .stamp nofun

theorem msgTypeStep_own (h : msgTypeStep cfg c d b a e = .ok (c', evs)) : OwnEvents d evs := by
  obtain ⟨-, h⟩ := afterStore_ok h
  cases h
  exact .stamp nofun

theorem bodyStep_own (h : bodyStep cfg c d b a e = .ok (c', evs)) : OwnEvents d evs := by
  obtain ⟨-, h⟩ := afterStore_ok h
  dsimp only at h
  split at h
  · split at h <;> cases h
    exact .stamp nofun
  · cases h
    exact .nil

theorem crcStep_own (h : crcStep cfg c d b a e = .ok (c', evs)) : OwnEvents d evs := by
  obtain ⟨-, h⟩ := afterStore_ok h
  split at h <;> cases h
  exact .cons_stamp nofun (.errorEvent _ rfl)

theorem cksStep_own (h : cksStep cfg c d b a e = .ok (c', evs)) : OwnEvents d evs := by
  obtain ⟨-, h⟩ := afterStore_ok h
  split at h <;> cases h
  exact .append (.cons_stamp nofun (.errorEvent _ rfl)) (dispatchEvents_own cfg _)

/-- Every event of a channel's step is that channel's own (rules R139, R212). -/
theorem channelStep_own (h : channelStep cfg c d b a e = .ok (c', evs)) : OwnEvents d evs := by
  unfold channelStep at h
  cases hp : c.phase <;> simp only [hp] at h
  case idle => exact idleStep_own h
  case len => exact lenStep_own h
  case appType => exact headerStep_own h nofun
  case fixed => exact fixedStep_own h
  case msgId => exact headerStep_own h nofun
  case fwVer => exact headerStep_own h nofun
  case applVer => exact headerStep_own h nofun
  case msgType => exact msgTypeStep_own h
  case body => exact bodyStep_own h
  case crc => exact crcStep_own h
  case cks => exact cksStep_own h

/-! ### A channel's step completes -/

/-- The body lies inside the buffer (rules R124, R142). -/
theorem Channel.Inv.body_le (hc : c.Inv cfg) : 9 + c.bodyLen.toNat ≤ bufferSize := by
  have hbound := hc.bodyBound
  unfold bufferSize
  omega

/-- Under the invariant every access of a phase step is inside the buffer, so the step answers (rules R142, R245). -/
theorem channelStep_ok (hcfg : configLegal cfg = true) (hc : c.Inv cfg) (d : Dir) (b : Byte) (a e : Offset) :
    ∃ c' evs, channelStep cfg c d b a e = .ok (c', evs) := by
  have hi := hc.idx_lt
  have hpos := hc.positioned
  unfold channelStep
  unfold Channel.Positioned at hpos
  cases hp : c.phase <;> simp only [hp] at hpos ⊢
  case idle =>
    by_cases hb : b = syncByte
    · subst hb
      exact ⟨_, _, idleStep_sync d a e⟩
    · exact ⟨_, _, idleStep_skip d a e hb⟩
  case len => exact ⟨_, _, lenStep_eq cfg d b a e hi⟩
  case appType => exact ⟨_, _, headerStep_eq d b a e _ _ hi⟩
  case fixed =>
    rcases hpos with h3 | h4
    · exact ⟨_, _, fixedStep_first d b a e h3⟩
    · exact ⟨_, _, fixedStep_second d b a e hi (by omega)⟩
  case msgId => exact ⟨_, _, headerStep_eq d b a e _ _ hi⟩
  case fwVer => exact ⟨_, _, headerStep_eq d b a e _ _ hi⟩
  case applVer => exact ⟨_, _, headerStep_eq d b a e _ _ hi⟩
  case msgType => exact ⟨_, _, msgTypeStep_eq cfg d b a e hi⟩
  case body =>
    by_cases hlast : c.idx.toNat = 8 + c.bodyLen.toNat
    · exact ⟨_, _, bodyStep_last cfg d b a e hi hlast⟩
    · exact ⟨_, _, bodyStep_more cfg d b a e hi hlast⟩
  case crc => exact ⟨_, _, crcStep_eq cfg d b a e hi hc.body_le⟩
  case cks =>
    have hstart := ((configLegal_iff cfg).mp hcfg).1
    exact ⟨_, _, cksStep_eq cfg d b a e hi hc.body_le (by omega)⟩
end
end

/-! ### Two runs, one with the other channel's transactions left out -/

/-- A run goes on from where its first step leads. -/
theorem run_succ {s t : State} (h : step s = .next t) (n : Nat) : run (n + 1) s = run n t := by
  have hcore : Sys2Proof.core.step s = .next t := h
  simp only [run, Host.Core.run, hcore]
  rfl

section
variable {s : State} {tx : Transaction} {c : Channel} {evs : List Event}

/-- A step on a DATA transaction whose channel's step answers. -/
theorem step_data_ok (hs : s.Inv) (hdata : tx.isData = true) (rest : List Transaction)
    (h : channelStep s.cfg (s.ch tx.dir) tx.dir tx.hdr.byte tx.start tx.stop = .ok (c, evs)) :
    step { s with input := tx :: rest } = .next { (s.setCh tx.dir c).emit evs with input := rest } := by
  have hop : tx.hdr.op = 0b01#2 := by simpa [Transaction.isData] using hdata
  rw [step_data (s := { s with input := tx :: rest }) rfl hop hs.launched,
    State.ch_input, ← Transaction.dir, h]
  cases tx.dir <;> rfl

theorem State.Inv.after_data (hs : s.Inv)
    (h : channelStep s.cfg (s.ch tx.dir) tx.dir tx.hdr.byte tx.start tx.stop = .ok (c, evs)) :
    ((s.setCh tx.dir c).emit evs).Inv :=
  hs.setCh_emit (channelStep_inv (hs.channel tx.dir) h) evs
end

/-- The DATA transactions `ts` on `s` and `ts'` on `s'` run to their ends, channel `d` ends the same, and the events of
channel `d` that the first run adds are all the events that the second one adds. -/
def RunsAgree (d : Dir) (s s' : State) (ts ts' : List Transaction) : Prop :=
  ∃ u v evs alone, run ts.length { s with input := ts } = .next u ∧
    run ts'.length { s' with input := ts' } = .next v ∧
    u.ch d = v.ch d ∧ u.output = s.output ++ evs ∧ v.output = s'.output ++ alone ∧
    evs.filter (Event.ofChannel d) = alone

section
variable {d : Dir} {s s' : State} {tx : Transaction} {ts ts' : List Transaction} {c : Channel} {evs : List Event}

/-- Without transactions both runs end where they begin. -/
theorem RunsAgree.nil (h : s.ch d = s'.ch d) : RunsAgree d s s' [] [] :=
  ⟨_, _, [], [], rfl, rfl, by simpa using h, by simp, by simp, rfl⟩

/-- A transaction of channel `d` at the head of both inputs. -/
theorem RunsAgree.cons_own (hs : s.Inv) (hs' : s'.Inv) (hdata : tx.isData = true)
    (h : channelStep s.cfg (s.ch tx.dir) tx.dir tx.hdr.byte tx.start tx.stop = .ok (c, evs))
    (h' : channelStep s'.cfg (s'.ch tx.dir) tx.dir tx.hdr.byte tx.start tx.stop = .ok (c, evs))
    (hrest : RunsAgree tx.dir ((s.setCh tx.dir c).emit evs) ((s'.setCh tx.dir c).emit evs) ts ts') :
    RunsAgree tx.dir s s' (tx :: ts) (tx :: ts') := by
  obtain ⟨u, v, more, alone, hu, hv, hch, huout, hvout, hfilter⟩ := hrest
  refine ⟨u, v, evs ++ more, evs ++ alone, ?_, ?_, hch, by simpa using huout, by simpa using hvout, ?_⟩
  · exact (run_succ (step_data_ok hs hdata ts h) _).trans hu
  · exact (run_succ (step_data_ok hs' hdata ts' h') _).trans hv
  · rw [List.filter_append, (channelStep_own h).filter_self, hfilter]

/-- A transaction of the other channel at the head of the first input alone. -/
theorem RunsAgree.cons_other (hs : s.Inv) (hdata : tx.isData = true) (hne : d ≠ tx.dir)
    (h : channelStep s.cfg (s.ch tx.dir) tx.dir tx.hdr.byte tx.start tx.stop = .ok (c, evs))
    (hrest : RunsAgree d ((s.setCh tx.dir c).emit evs) s' ts ts') : RunsAgree d s s' (tx :: ts) ts' := by
  obtain ⟨u, v, more, alone, hu, hv, hch, huout, hvout, hfilter⟩ := hrest
  refine ⟨u, v, evs ++ more, alone, ?_, hv, hch, by simpa using huout, hvout, ?_⟩
  · exact (run_succ (step_data_ok hs hdata ts h) _).trans hu
  · rw [List.filter_append, (channelStep_own h).filter_of_ne hne, hfilter, List.nil_append]

/-- From states alike in the configuration and in channel `d`, a stream and its transactions of channel `d` alone
(rules R62, R139). -/
theorem runsAgree_filter (hs : s.Inv) (hs' : s'.Inv) (hcfg : s.cfg = s'.cfg) (hch : s.ch d = s'.ch d)
    (hdata : ∀ t ∈ ts, t.isData = true) : RunsAgree d s s' ts (ts.filter fun t => t.dir == d) := by
  induction ts generalizing s s' with
  | nil => exact .nil hch
  | cons tx ts ih =>
    obtain ⟨hhead, htail⟩ := List.forall_mem_cons.mp hdata
    obtain ⟨c, evs, h⟩ := channelStep_ok hs.legal (hs.channel tx.dir) tx.dir tx.hdr.byte tx.start tx.stop
    rcases Dir.eq_or_eq_other tx.dir d with rfl | rfl
    · have h' := h
      rw [hcfg, hch] at h'
      rw [List.filter_cons_of_pos (by simp)]
      exact .cons_own hs hs' hhead h h' (ih (hs.after_data h) (hs'.after_data h') (by simpa using hcfg) (by simp) htail)
    · rw [List.filter_cons_of_neg (by simp)]
      exact .cons_other hs hhead (by simp) h (ih (hs.after_data h) hs' (by simpa using hcfg) (by simpa using hch) htail)
end

/-- Settles O58: both runs are from one state, and along them channel `d` and the configuration stay alike. -/
theorem channelIsolation : Obligations.ChannelIsolation := by
  intro d s ts hs hdata
  exact runsAgree_filter hs hs rfl rfl hdata

end Sys2Proof.Machine

/-! PROOFS. The encodings: the fields of a header (rules R70, R71, R92), the dispatch key, its rows and the two lookup
tables (rules R79, R80, R81, R160, R161), the round trips of the three formats (rules R90, R121, R170), and the ranges
of the extracted values (rule R89). -/

namespace Sys2Proof.Machine

open Sys2Proof

/-! ### The input header -/

@[simp] theorem Dir.ofBit_bit (d : Dir) : Dir.ofBit d.bit = d := by cases d <;> rfl

@[simp] theorem Dir.bit_ofBit : ∀ x : BitVec 1, (Dir.ofBit x).bit = x := by decide

section
variable (op : BitVec 2) (d : Dir) (b : Byte)

@[simp] theorem packHeader_op : (packHeader op d b).op = op := by
  rw [Header.op, packHeader, BitVec.extractLsb'_append_eq_of_le (by decide)]
  exact BitVec.extractLsb'_append_eq_left

@[simp] theorem packHeader_dir : (packHeader op d b).dir = d := by
  rw [Header.dir, packHeader, BitVec.extractLsb'_append_eq_of_le (by decide)]
  exact (congrArg Dir.ofBit BitVec.extractLsb'_append_eq_right).trans (Dir.ofBit_bit d)

@[simp] theorem packHeader_byte : (packHeader op d b).byte = b := BitVec.extractLsb'_append_eq_right
end

/-- A header is its three fields packed (rule R70). -/
theorem packHeader_fields (h : Header) : packHeader h.op h.dir h.byte = h := by
  rw [packHeader, Header.dir, Dir.bit_ofBit, Header.op, Header.byte,
    BitVec.extractLsb'_append_extractLsb'_eq_extractLsb' (by decide : 9 = 8 + 1),
    BitVec.extractLsb'_append_extractLsb'_eq_extractLsb' (by decide : 8 = 0 + 8)]
  exact BitVec.extractLsb'_eq_self

theorem packHeader_of_op {h : Header} {op : BitVec 2} (hop : (h.op == op) = true) :
    packHeader op h.dir h.byte = h := by
  rw [← eq_of_beq hop, packHeader_fields]

theorem Header.dir_eq (h : Header) : h.dir = if h.toNat / 256 % 2 = 0 then .am else .ma := by
  have hbit : (h.extractLsb' 8 1).toNat = h.toNat / 256 % 2 := by
    rw [BitVec.extractLsb'_toNat, Nat.shiftRight_eq_div_pow]
  rw [Header.dir, Dir.ofBit, ← hbit]
  generalize h.extractLsb' 8 1 = x
  revert x
  decide

theorem Header.byte_eq (h : Header) : h.byte = BitVec.ofNat 8 (h.toNat % 256) := by
  apply BitVec.eq_of_toNat_eq
  rw [Header.byte, BitVec.extractLsb'_toNat]
  simp

/-- What a transaction decodes to, by its operation read as a number (rules R71, R92). -/
theorem decode_transaction_eq (tx : Transaction) : decode tx.encoded =
    if tx.hdr.toNat / 512 = 0 then .ok (.other tx.dir tx.hdr.byte tx.start tx.stop)
    else if tx.hdr.toNat / 512 = 1 then .ok (.data tx.dir tx.hdr.byte tx.start tx.stop)
    else if tx.hdr.toNat / 512 = 2 then .ok (.reset tx.dir tx.hdr.byte tx.start tx.stop)
    else .error .reservedOp := by
  simp only [Transaction.encoded, decode, decodeInput, BitVec.toNat_eq, Header.toNat_op]
  rfl

/-- Settles O3: each field of the header is the same number as the bits that the decoder takes. -/
theorem headerFieldsSelectOperation : Obligations.HeaderFieldsSelectOperation := by
  intro hdr a e
  have h := decode_transaction_eq ⟨hdr, a, e⟩
  simp only [Transaction.dir, Header.dir_eq, Header.byte_eq] at h
  exact h

/-- Settles O4: the decoder evaluated on each word. -/
theorem writtenWordsDecode : Obligations.WrittenWordsDecode :=
  ⟨rfl, rfl, rfl, rfl, rfl, rfl, rfl, rfl, rfl, rfl, rfl⟩

/-! ### Transactions that a step refuses -/

section
variable {s : State} {t : Transaction} {rest : List Transaction}

/-- A transaction without an instruction is refused with the decoder's reason (rule R92). -/
theorem step_undecoded {reason : Reject} (h : s.input = t :: rest) (hd : decode t.encoded = .error reason) :
    step s = .refused (.reservedEncoding reason) := by
  simp [step, fetch_cons h, hd]

/-- An instruction that is turned away is refused (rule R32). -/
theorem step_beforeLaunch {i : Instr} (h : s.input = t :: rest) (hd : decode t.encoded = .ok i)
    (hl : beforeLaunch s i = true) : step s = .refused .beforeFirstReset := by
  simp [step, fetch_cons h, hd, hl]
end

/-- Settles O10: `op = 11` has no instruction, and OTHER and DATA are turned away before the launch. -/
theorem inputsWithoutMeaningRefused : Obligations.InputsWithoutMeaningRefused := by
  intro s t rest hin
  have hdec := decode_transaction_eq t
  refine ⟨fun hop => step_undecoded hin (by simp [hdec, hop]), fun hop hlaunched => ?_⟩
  have hop' : t.hdr.toNat / 512 = 0 ∨ t.hdr.toNat / 512 = 1 := by omega
  rcases hop' with h0 | h1
  · exact step_beforeLaunch hin (i := .other t.dir t.hdr.byte t.start t.stop) (by simp [hdec, h0])
      (by simp [beforeLaunch, hlaunched])
  · exact step_beforeLaunch hin (i := .data t.dir t.hdr.byte t.start t.stop) (by simp [hdec, h1])
      (by simp [beforeLaunch, hlaunched])

/-! ### The dispatch key -/

section
variable (m t m' t' : Byte)

theorem packKey_toNat : (packKey m t).toNat = 256 * m.toNat + t.toNat := by
  rw [packKey, BitVec.toNat_append, ← Nat.shiftLeft_add_eq_or_of_lt t.isLt, Nat.shiftLeft_eq, Nat.mul_comm]

@[simp] theorem packKey_msgType : (packKey m t).msgType = m := BitVec.extractLsb'_append_eq_left

@[simp] theorem packKey_appType : (packKey m t).appType = t := BitVec.extractLsb'_append_eq_right

/-- A key is its two bytes packed (rule R79). -/
theorem packKey_fields (k : Key) : packKey k.msgType k.appType = k := by
  rw [packKey, Key.msgType, Key.appType,
    BitVec.extractLsb'_append_extractLsb'_eq_extractLsb' (by decide : 8 = 0 + 8)]
  exact BitVec.extractLsb'_eq_self

theorem packKey_and : packKey m t &&& packKey m' t' = packKey (m &&& m') (t &&& t') := BitVec.and_append

variable {m t m' t'} in
theorem packKey_inj : packKey m t = packKey m' t' ↔ m = m' ∧ t = t' := by
  refine ⟨fun h => ⟨?_, ?_⟩, fun ⟨hm, ht⟩ => hm ▸ ht ▸ rfl⟩
  · simpa using congrArg Key.msgType h
  · simpa using congrArg Key.appType h
end

/-! ### The key's rows and the dispatcher's tables -/

/-- The key row of an entry of the exact table. -/
def exactRow (entry : (Byte × Byte) × Handler) : DispatchRow := ⟨entry.2, packKey entry.1.1 entry.1.2, 0xFFFF⟩

/-- The key row of an entry of the type table. -/
def typeRow (entry : Byte × Handler) : DispatchRow := ⟨entry.2, packKey entry.1 0x00, 0xFF00⟩

/-- The registered rows are those of the two tables' entries, and the default (rules R80, R160). -/
theorem dispatchRows_eq :
    dispatchRows = exactTable.map exactRow ++ typeTable.map typeRow ++ [⟨.hDefault, 0x0000, 0x0000⟩] := by decide

section
variable (m t : Byte)

theorem exactRow_matchesKey (entry : (Byte × Byte) × Handler) :
    (exactRow entry).matchesKey (packKey m t) = ((m, t) == entry.1) := by
  have hmask : packKey m t &&& 0xFFFF = packKey m t := BitVec.and_allOnes
  rw [DispatchRow.matchesKey, exactRow, hmask, Bool.eq_iff_iff, beq_iff_eq, beq_iff_eq, packKey_inj, Prod.ext_iff]

theorem typeRow_matchesKey (entry : Byte × Handler) :
    (typeRow entry).matchesKey (packKey m t) = (m == entry.1) := by
  have hmask : packKey m t &&& 0xFF00 = packKey m 0x00 :=
    (packKey_and m t (BitVec.allOnes 8) 0#8).trans (congrArg₂ packKey BitVec.and_allOnes BitVec.and_zero)
  rw [DispatchRow.matchesKey, typeRow, hmask, Bool.eq_iff_iff, beq_iff_eq, beq_iff_eq, packKey_inj]
  exact and_iff_left rfl

/-- A search of the rows of a table's entries is a lookup in the table. -/
theorem find?_exactRow (table : List ((Byte × Byte) × Handler)) :
    ((table.map exactRow).find? fun r => r.matchesKey (packKey m t)).map DispatchRow.handler =
      table.lookup (m, t) := by
  induction table with
  | nil => rfl
  | cons entry rest ih =>
    rw [List.map_cons, List.find?_cons, exactRow_matchesKey, List.lookup]
    cases (m, t) == entry.1
    · exact ih
    · rfl

theorem find?_typeRow (table : List (Byte × Handler)) :
    ((table.map typeRow).find? fun r => r.matchesKey (packKey m t)).map DispatchRow.handler = table.lookup m := by
  induction table with
  | nil => rfl
  | cons entry rest ih =>
    rw [List.map_cons, List.find?_cons, typeRow_matchesKey, List.lookup]
    cases m == entry.1
    · exact ih
    · rfl

/-- The key rows and the two tables select one handler (rules R79, R160, R161). -/
theorem decodeKey_packKey : decodeKey (packKey m t) = selectHandler m t := by
  rw [decodeKey, dispatchRows_eq, List.find?_append, List.find?_append, selectHandler, ← find?_exactRow,
    ← find?_typeRow m t]
  cases (exactTable.map exactRow).find? fun r => r.matchesKey (packKey m t)
  case some => rfl
  case none =>
    cases (typeTable.map typeRow).find? fun r => r.matchesKey (packKey m t)
    case some => rfl
    case none => simp [DispatchRow.matchesKey]
end

/-- Settles O6: the rows are the tables' entries, so that the first row that matches is the first entry found. -/
theorem tablesAgreeWithKeyRows : Obligations.TablesAgreeWithKeyRows := by
  intro m t
  exact ⟨packKey_toNat m t, (decodeKey_packKey m t).symm⟩

/-- The first row has more mask bits than the second, or no key matches both. -/
def Outranks (r r' : DispatchRow) : Prop :=
  (r'.mask &&& r.mask = r'.mask ∧ r'.mask ≠ r.mask) ∨ (r.mask = r'.mask ∧ r.pattern ≠ r'.pattern)

theorem dispatchRows_outrank : dispatchRows.Pairwise Outranks := by
  unfold Outranks
  decide

theorem Outranks.mask_lt {r r' : DispatchRow} {key : Key} (h : Outranks r r') (hr : key &&& r.mask = r.pattern)
    (hr' : key &&& r'.mask = r'.pattern) : r'.mask &&& r.mask = r'.mask ∧ r'.mask ≠ r.mask := by
  rcases h with hlt | ⟨hmask, hne⟩
  · exact hlt
  · exact absurd (by rw [← hr, ← hr', hmask]) hne

/-- The handler decoded is that of a row that matches, and no row above it matches (rules R79, R81). -/
theorem decodeKey_row (key : Key) : ∃ r above below, dispatchRows = above ++ r :: below ∧ r.handler = decodeKey key ∧
    key &&& r.mask = r.pattern ∧ ∀ r' ∈ above, key &&& r'.mask ≠ r'.pattern := by
  have hsome : (dispatchRows.find? fun r => r.matchesKey key).isSome := by
    rw [List.find?_isSome]
    exact ⟨⟨.hDefault, 0x0000, 0x0000⟩, by decide, by simp [DispatchRow.matchesKey]⟩
  obtain ⟨r, hfind⟩ := Option.isSome_iff_exists.mp hsome
  obtain ⟨hr, above, below, hrows, habove⟩ := List.find?_eq_some_iff_append.mp hfind
  refine ⟨r, above, below, hrows, by rw [decodeKey, hfind], eq_of_beq hr, fun r' hmem => ?_⟩
  simpa [DispatchRow.matchesKey] using habove r' hmem

/-- Settles O5: every row of the list outranks the ones below it, so the first that matches has the most mask bits. -/
theorem moreMaskBitsWin : Obligations.MoreMaskBitsWin := by
  intro key
  obtain ⟨r, above, below, hrows, hhandler, hr, habove⟩ := decodeKey_row key
  have hbelow := (List.pairwise_append.mp (hrows ▸ dispatchRows_outrank)).2.1
  refine ⟨r, by simp [hrows], hhandler, hr, fun r' hmem hr' => ?_⟩
  rw [hrows, List.mem_append, List.mem_cons] at hmem
  rcases hmem with hmem | rfl | hmem
  · exact absurd hr' (habove r' hmem)
  · exact .inl rfl
  · exact .inr ((List.rel_of_pairwise_cons hbelow hmem).mask_lt hr hr')

/-! ### The handler of a frame's type bytes -/

section
variable {m t : Byte}

theorem exactTable_lookup_eq_none_iff :
    exactTable.lookup (m, t) = none ↔ (m = 0x02 → t ≠ 0xAC) ∧ (m = 0x03 → t ≠ 0xAC) := by
  simp [exactTable]

theorem typeTable_lookup_eq_none_iff : typeTable.lookup m = none ↔ m ∉ registeredTypes := by
  simp [typeTable, registeredTypes]

theorem not_mem_registeredTypes_iff : m ∉ registeredTypes ↔
    m ≠ 0x02 ∧ m ≠ 0x03 ∧ m ≠ 0x04 ∧ m ≠ 0x05 ∧ m ≠ 0x63 ∧ m ≠ 0x81 ∧ m ≠ 0x82 := by
  simp [registeredTypes]

/-- Without an exact row the type table decides (rule R161). -/
theorem selectHandler_of_not_exact (h : exactTable.lookup (m, t) = none) :
    selectHandler m t = (typeTable.lookup m).getD .hDefault := by
  rw [selectHandler, h]
  cases typeTable.lookup m <;> rfl

theorem selectHandler_of_appType_ne (h : t ≠ 0xAC) : selectHandler m t = (typeTable.lookup m).getD .hDefault :=
  selectHandler_of_not_exact (exactTable_lookup_eq_none_iff.mpr ⟨fun _ => h, fun _ => h⟩)

theorem selectHandler_of_not_registered (h : m ∉ registeredTypes) : selectHandler m t = .hDefault := by
  obtain ⟨h2, h3, -⟩ := not_mem_registeredTypes_iff.mp h
  rw [selectHandler_of_not_exact (exactTable_lookup_eq_none_iff.mpr ⟨(absurd · h2), (absurd · h3)⟩),
    typeTable_lookup_eq_none_iff.mpr h]
  rfl
end

/-- Settles O7: an exact row needs the appliance type `0xAC`; without one the type table decides. -/
theorem selectedHandlerOfEveryType : Obligations.SelectedHandlerOfEveryType := by
  intro m t
  refine ⟨?_, ?_, ?_, ?_, ?_, ?_, ?_, ?_⟩
  · rintro rfl
    split
    next ht => subst ht; rfl
    next ht => exact selectHandler_of_appType_ne ht
  · rintro rfl
    split
    next ht => subst ht; rfl
    next ht => exact selectHandler_of_appType_ne ht
  · rintro rfl; rfl
  · rintro rfl; rfl
  · rintro rfl; rfl
  · rintro rfl; rfl
  · rintro rfl; rfl
  · intro h2 h3 h4 h5 h63 h81 h82
    exact selectHandler_of_not_registered (not_mem_registeredTypes_iff.mpr ⟨h2, h3, h4, h5, h63, h81, h82⟩)

/-- The handler's row takes these type bytes and no row of higher precedence does (rules R79, R80). -/
def Handles (h : Handler) (m t : Byte) : Bool :=
  match h with
  | .h02Ac    => m == 0x02 && t == 0xAC
  | .h03Ac    => m == 0x03 && t == 0xAC
  | .h02      => m == 0x02 && t != 0xAC
  | .h03      => m == 0x03 && t != 0xAC
  | .h04      => m == 0x04
  | .h05      => m == 0x05
  | .h63      => m == 0x63
  | .h81      => m == 0x81
  | .h82      => m == 0x82
  | .hDefault => !registeredTypes.contains m

section
variable {h : Handler} {m t : Byte}

theorem selectHandler_of_handles (hh : Handles h m t = true) : selectHandler m t = h := by
  obtain ⟨h2, h3, h4, h5, h63, h81, h82, -⟩ := selectedHandlerOfEveryType m t
  cases h <;> simp only [Handles, Bool.and_eq_true, beq_iff_eq, bne_iff_ne] at hh
  case h02Ac => rw [h2 hh.1, if_pos hh.2]
  case h03Ac => rw [h3 hh.1, if_pos hh.2]
  case h02 => rw [h2 hh.1, if_neg hh.2]
  case h03 => rw [h3 hh.1, if_neg hh.2]
  case h04 => exact h4 hh
  case h05 => exact h5 hh
  case h63 => exact h63 hh
  case h81 => exact h81 hh
  case h82 => exact h82 hh
  case hDefault => exact selectHandler_of_not_registered (by simpa using hh)

theorem exists_handles (m t : Byte) : ∃ h, Handles h m t = true := by
  by_cases hm : m ∈ registeredTypes
  · simp only [registeredTypes, List.mem_cons, List.not_mem_nil, or_false] at hm
    by_cases ht : t = 0xAC
    · subst ht
      rcases hm with rfl | rfl | rfl | rfl | rfl | rfl | rfl
      exacts [⟨.h02Ac, rfl⟩, ⟨.h03Ac, rfl⟩, ⟨.h04, rfl⟩, ⟨.h05, rfl⟩, ⟨.h63, rfl⟩, ⟨.h81, rfl⟩, ⟨.h82, rfl⟩]
    · have hne : (t != 0xAC) = true := bne_iff_ne.mpr ht
      rcases hm with rfl | rfl | rfl | rfl | rfl | rfl | rfl
      exacts [⟨.h02, hne⟩, ⟨.h03, hne⟩, ⟨.h04, rfl⟩, ⟨.h05, rfl⟩, ⟨.h63, rfl⟩, ⟨.h81, rfl⟩, ⟨.h82, rfl⟩]
  · exact ⟨.hDefault, by simpa [Handles] using hm⟩

/-- The dispatcher selects the one handler of a frame's type bytes (rules R80, R161). -/
theorem selectHandler_eq_iff : selectHandler m t = h ↔ Handles h m t = true := by
  refine ⟨?_, selectHandler_of_handles⟩
  rintro rfl
  obtain ⟨h', hh⟩ := exists_handles m t
  rwa [selectHandler_of_handles hh]
end

/-! ### The round trips of the phase format and of the dispatch format -/

section
variable (d : Dir) (b : Byte) (s e : Offset) (p : Phase)

@[simp] theorem decodePhase_code : decodePhase p.code = some p := by cases p <;> rfl

variable {p} in
theorem code_of_decodePhase {code : BitVec 4} (h : decodePhase code = some p) : p.code = code := by
  simpa using List.find?_some h

theorem wf_phase_instr : (p.instr d b s e).wf = true := by cases p <;> rfl

theorem encode_phase_instr : encode (p.instr d b s e) = encodePhase p d b s e := by cases p <;> rfl

theorem decode_encode_phase_instr : decode (encode (p.instr d b s e)) = .ok (p.instr d b s e) := by
  rw [encode_phase_instr]
  simp [encodePhase, decode]
end

/-- A phase code and a header that decode are a phase step's encoding (rules R90, R91, R121). -/
theorem decode_phase_ok {code : BitVec 4} {hdr : Header} {s e : Offset} {i : Instr}
    (h : decode (.phase code hdr s e) = .ok i) :
    ∃ (p : Phase) (d : Dir) (b : Byte), i = p.instr d b s e ∧ encodePhase p d b s e = .phase code hdr s e := by
  simp only [decode] at h
  split at h
  next hop =>
    split at h
    next p hp =>
      cases h
      exact ⟨p, hdr.dir, hdr.byte, rfl,
        congrArg₂ (Encoded.phase · · s e) (code_of_decodePhase hp) (packHeader_of_op (beq_of_eq hop))⟩
    next => cases h
  next => cases h

section
variable (h : Handler) (f : FrameArgs)

theorem encode_handler_instr : encode (h.instr f) = encodeHandler f := by cases h <;> rfl

/-- A handler's instruction is well-formed for the type bytes it handles and a body that fits (rules R79, R170). -/
theorem wf_handler_instr : (h.instr f).wf = (f.bodyFits && Handles h f.msgType f.appType) := by cases h <;> rfl

theorem decode_encode_handler_instr (hwf : (h.instr f).wf = true) : decode (encode (h.instr f)) = .ok (h.instr f) := by
  rw [wf_handler_instr, Bool.and_eq_true, FrameArgs.bodyFits, decide_eq_true_iff] at hwf
  obtain ⟨hfits, hhandles⟩ := hwf
  rw [encode_handler_instr]
  simp [encodeHandler, decode, hfits, decodeKey_packKey, selectHandler_of_handles hhandles]
end

/-- A key and operands that decode are the encoding of the handler that the key selects (rules R79, R81, R170). -/
theorem decode_dispatch_ok {key : Key} {d : Dir} {body : List Byte} {ok : Bool} {fs e : Offset} {i : Instr}
    (h : decode (.dispatch key d body ok fs e) = .ok i) :
    ∃ f : FrameArgs, f.bodyFits = true ∧ i = (selectHandler f.msgType f.appType).instr f ∧
      encodeHandler f = .dispatch key d body ok fs e := by
  simp only [decode] at h
  split at h
  next hlen =>
    cases h
    refine ⟨⟨d, key.appType, key.msgType, body, ok, fs, e⟩, decide_eq_true hlen, ?_, ?_⟩
    · rw [← decodeKey_packKey, packKey_fields]
    · rw [encodeHandler, packKey_fields]
  next => cases h

/-- Settles O1: by the row's format. The fields of a header come back as they were packed, a phase's code names it,
and a well-formed handler is the one that its key selects. -/
theorem decodeEncodeRoundTrip : Obligations.DecodeEncodeRoundTrip := by
  intro i hwf
  cases i with
  | other d b s e => simp [encode, decode, decodeInput]
  | data d b s e => simp [encode, decode, decodeInput]
  | reset d b s e => simp [encode, decode, decodeInput]
  | idle d b s e => exact decode_encode_phase_instr d b s e .idle
  | len d b s e => exact decode_encode_phase_instr d b s e .len
  | appType d b s e => exact decode_encode_phase_instr d b s e .appType
  | fixed d b s e => exact decode_encode_phase_instr d b s e .fixed
  | msgId d b s e => exact decode_encode_phase_instr d b s e .msgId
  | fwVer d b s e => exact decode_encode_phase_instr d b s e .fwVer
  | applVer d b s e => exact decode_encode_phase_instr d b s e .applVer
  | msgType d b s e => exact decode_encode_phase_instr d b s e .msgType
  | body d b s e => exact decode_encode_phase_instr d b s e .body
  | crc d b s e => exact decode_encode_phase_instr d b s e .crc
  | cks d b s e => exact decode_encode_phase_instr d b s e .cks
  | h02Ac f => exact decode_encode_handler_instr .h02Ac f hwf
  | h03Ac f => exact decode_encode_handler_instr .h03Ac f hwf
  | h02 f => exact decode_encode_handler_instr .h02 f hwf
  | h03 f => exact decode_encode_handler_instr .h03 f hwf
  | h04 f => exact decode_encode_handler_instr .h04 f hwf
  | h05 f => exact decode_encode_handler_instr .h05 f hwf
  | h63 f => exact decode_encode_handler_instr .h63 f hwf
  | h81 f => exact decode_encode_handler_instr .h81 f hwf
  | h82 f => exact decode_encode_handler_instr .h82 f hwf
  | hDefault f => exact decode_encode_handler_instr .hDefault f hwf

/-- Settles O2: in each format, what decodes is the encoding of the instruction that it decodes to. -/
theorem decodedEncodesBack : Obligations.DecodedEncodesBack := by
  intro w i h
  cases w with
  | input hdr s e =>
    rcases decode_transaction (tx := ⟨hdr, s, e⟩) h with ⟨hop, rfl⟩ | ⟨hop, rfl⟩ | ⟨hop, rfl⟩
    · exact ⟨rfl, congrArg (Encoded.input · s e) (packHeader_of_op hop)⟩
    · exact ⟨rfl, congrArg (Encoded.input · s e) (packHeader_of_op hop)⟩
    · exact ⟨rfl, congrArg (Encoded.input · s e) (packHeader_of_op hop)⟩
  | phase code hdr s e =>
    obtain ⟨p, d, b, rfl, henc⟩ := decode_phase_ok h
    exact ⟨wf_phase_instr d b s e p, (encode_phase_instr d b s e p).trans henc⟩
  | dispatch key d body ok fs e =>
    obtain ⟨f, hfits, rfl, henc⟩ := decode_dispatch_ok h
    refine ⟨?_, (encode_handler_instr _ f).trans henc⟩
    rw [wf_handler_instr, hfits, selectHandler_eq_iff.mp rfl]
    rfl

/-! ### Extracted values -/

section
variable (body : List Byte) (desc : FieldDesc) (b : Byte)

/-- The value of a conversion on a body that holds its bytes (rules R172 to R175). -/
def convValue : Int :=
  let i := desc.i.toNat
  match desc.conv with
  | .raw        => convRaw (bodyByte body i) desc.lsb.toNat desc.width.toNat
  | .setpointX2 => convSetpointX2 (bodyByte body i)
  | .tempX2     => convTempX2 (bodyByte body i)
  | .ipRev4     => (convIpRev4 (bodyByte body i) (bodyByte body (i + 1)) (bodyByte body (i + 2))
      (bodyByte body (i + 3))).toNat

/-- The extractor gives the conversion's value when the body holds its bytes, and nothing otherwise (rule R171). -/
theorem extract_eq : extract body desc =
    if desc.i.toNat + convBytes desc.conv > body.length then none else some (desc.fid, convValue body desc) := by
  unfold extract convValue
  cases desc.conv <;> rfl

theorem convRaw_le (lsb width : Nat) : convRaw b lsb width ≤ b.toNat := by
  rw [convRaw, Nat.shiftRight_eq_div_pow]
  exact Nat.and_le_left.trans (Nat.div_le_self _ _)

theorem convSetpointX2_lt : convSetpointX2 b < 1024 := by
  have hlow := (b &&& 0x0F).isLt
  have hbit := Bool.toNat_le (b.getLsbD 4)
  unfold convSetpointX2
  omega

theorem convValue_fits : FitsSigned33 (convValue body desc) := by
  have hb := (bodyByte body desc.i.toNat).isLt
  unfold FitsSigned33 convValue
  cases desc.conv <;> dsimp only
  case raw =>
    have hle := convRaw_le (bodyByte body desc.i.toNat) desc.lsb.toNat desc.width.toNat
    omega
  case setpointX2 =>
    have hlt := convSetpointX2_lt (bodyByte body desc.i.toNat)
    omega
  case tempX2 =>
    unfold convTempX2
    omega
  case ipRev4 =>
    generalize convIpRev4 _ _ _ _ = address
    have hlt := address.isLt
    omega
end

/-- Settles O39: a value extracted is a conversion's, and each conversion's range lies in the 33 bits. -/
theorem extractedValuesFitSigned33 : Obligations.ExtractedValuesFitSigned33 := by
  intro body desc f h
  rw [extract_eq] at h
  split at h <;> cases h
  exact convValue_fits body desc

/-! ### The phase sequence -/

section
variable {cfg : Config} {c c' : Channel} {d : Dir} {b : Byte} {a e : Offset} {evs : List Event}

/-- The phase that follows is given by the phase and the position, and by the byte in IDLE (rules R90, R125). -/
theorem channelStep_phase (hc : c.Inv cfg) (h : channelStep cfg c d b a e = .ok (c', evs)) :
    c'.phase = match c.phase with
      | .idle    => if b = 0xAA then .len else .idle
      | .len     => .appType
      | .appType => .fixed
      | .fixed   => if c.idx.toNat = 3 then .fixed else .msgId
      | .msgId   => .fwVer
      | .fwVer   => .applVer
      | .applVer => .msgType
      | .msgType => if 1 ≤ c.bodyLen.toNat then .body else if cfg.crcPresent then .crc else .cks
      | .body    => if c.idx.toNat = 8 + c.bodyLen.toNat then (if cfg.crcPresent then .crc else .cks) else .body
      | .crc     => .cks
      | .cks     => .idle := by
  have hi := hc.idx_lt
  unfold channelStep at h
  cases hp : c.phase <;> simp only [hp] at h ⊢
  case idle =>
    by_cases hb : b = syncByte
    · subst hb
      rw [idleStep_sync] at h
      cases h
      rfl
    · rw [idleStep_skip d a e hb] at h
      cases h
      exact hp.trans (if_neg hb).symm
  case len =>
    rw [lenStep_eq cfg d b a e hi] at h
    cases h
    rfl
  case fixed =>
    by_cases h3 : c.idx.toNat = 3
    · rw [fixedStep_first d b a e h3] at h
      cases h
      exact hp.trans (if_pos h3).symm
    · rw [fixedStep_second d b a e hi h3] at h
      cases h
      exact (if_neg h3).symm
  case msgType =>
    rw [msgTypeStep_eq cfg d b a e hi] at h
    cases h
    rfl
  case body =>
    by_cases hlast : c.idx.toNat = 8 + c.bodyLen.toNat
    · rw [bodyStep_last cfg d b a e hi hlast] at h
      cases h
      exact (if_pos hlast).symm
    · rw [bodyStep_more cfg d b a e hi hlast, markBodyStart_eq] at h
      cases h
      exact hp.trans (if_neg hlast).symm
  case crc =>
    rw [crcStep_eq cfg d b a e hi hc.body_le] at h
    cases h
    rfl
  case cks =>
    rw [cksStep_channel h]
    rfl
  all_goals
    rw [headerStep_eq d b a e _ _ hi] at h
    cases h
    rfl
end

/-- Settles O53: DATA commits its channel's step, whose next phase no verdict enters. -/
theorem phaseSequence : Obligations.PhaseSequence := by
  intro d b a e s t hs h
  rw [exec_data] at h
  obtain ⟨c, evs, hstep, rfl⟩ := commit_next h
  rw [State.emit_ch, State.setCh_ch]
  exact channelStep_phase (hs.channel d) hstep

end Sys2Proof.Machine

/-! PROOFS. A whole frame (rules R74, R75, R77, R161, R210, R211, R215): what a channel holds after each byte of a
frame, what each byte gives, and the run over all of them. -/

namespace Sys2Proof.Machine

open Sys2Proof

/-! ### The bytes of the frame in the buffer -/

/-- A buffer and an index that have stored the first `k` bytes of a frame (rules R50, R123). -/
structure Holds (xs : List WireByte) (k : Nat) (buf : Memory) (idx : BitVec 9) : Prop where
  canonical : buf.wf = true
  idx       : idx.toNat = k
  bytes     : ∀ x < k, buf.read x = (wireAt xs x).byte

section
variable {xs : List WireByte} {k : Nat}

theorem drop_eq_wireAt_cons (hk : k < xs.length) : xs.drop k = wireAt xs k :: xs.drop (k + 1) := by
  rw [List.drop_eq_getElem_cons hk, wireAt, List.getD_eq_getElem _ _ hk]

theorem wireRange_succ (hk : k < xs.length) (n : Nat) :
    wireRange xs k (n + 1) = (wireAt xs k).byte :: wireRange xs (k + 1) n := by
  rw [wireRange, drop_eq_wireAt_cons hk, List.take_succ_cons, List.map_cons, wireRange]

theorem Holds.stored {c : Channel} (h : Holds xs k c.buf c.idx) (hk : k < bufferSize) :
    Holds xs (k + 1) (stored c (wireAt xs k).byte).buf (stored c (wireAt xs k).byte).idx where
  canonical := Memory.wf_write _ _ h.canonical
  idx := by rw [stored_idx, idx_succ (by rwa [h.idx]), h.idx]
  bytes x hx := by
    rw [stored_buf, Memory.read_write _ _ _ h.canonical, h.idx]
    split
    next heq => rw [heq]
    next hne => exact h.bytes x (by omega)

/-- A range of the stored bytes is that range of the frame. -/
theorem Holds.slice_eq {buf : Memory} {idx : BitVec 9} (h : Holds xs k buf idx) (hk : k ≤ xs.length) {lo n : Nat}
    (hn : lo + n ≤ k) : buf.slice lo n = wireRange xs lo n := by
  induction n generalizing lo with
  | zero => simp [wireRange]
  | succ n ih =>
    rw [Memory.slice_succ, wireRange_succ (by omega), h.bytes lo (by omega), ih (by omega)]
end

/-! ### A channel inside the frame -/

/-- Channel `c` has taken the first `k` bytes of the frame `xs` and waits in phase `p`: the registers hold what the
frame's later steps read (rules R22, R24). -/
structure InFrame (cfg : Config) (xs : List WireByte) (k : Nat) (p : Phase) (c : Channel) : Prop where
  phase      : c.phase = p
  holds      : Holds xs k c.buf c.idx
  frameStart : c.frameStart = (wireAt xs 0).start
  fieldStart : 3 < k → c.fieldStart = (wireAt xs 3).start
  bodyStart  : p = .body → 9 < k → c.bodyStart = (wireAt xs 9).start
  bodyLen    : 1 < k → c.bodyLen.toNat = declaredBody cfg xs
  crcOk      : c.crcOk = (p == .cks && frameCrcOk cfg xs (declaredBody cfg xs))

/-- Byte `k` of the frame `xs` takes a channel of direction `d` from phase `p` to phase `q` with the events `evs`. -/
def Takes (cfg : Config) (d : Dir) (xs : List WireByte) (k : Nat) (p : Phase) (evs : List Event) (q : Phase) : Prop :=
  ∀ c, InFrame cfg xs k p c → ∃ c',
    channelStep cfg c d (wireAt xs k).byte (wireAt xs k).start (wireAt xs k).stop = .ok (c', evs) ∧
      InFrame cfg xs (k + 1) q c'

section
variable {cfg : Config} {c : Channel} {d : Dir} {b : Byte} {a e : Offset}

theorem channelStep_len (h : c.phase = .len) : channelStep cfg c d b a e = lenStep cfg c d b a e := by
  rw [channelStep, h]
theorem channelStep_fixed (h : c.phase = .fixed) : channelStep cfg c d b a e = fixedStep c d b a e := by
  rw [channelStep, h]
theorem channelStep_msgType (h : c.phase = .msgType) : channelStep cfg c d b a e = msgTypeStep cfg c d b a e := by
  rw [channelStep, h]
theorem channelStep_body (h : c.phase = .body) : channelStep cfg c d b a e = bodyStep cfg c d b a e := by
  rw [channelStep, h]
theorem channelStep_crc (h : c.phase = .crc) : channelStep cfg c d b a e = crcStep cfg c d b a e := by
  rw [channelStep, h]
theorem channelStep_cks (h : c.phase = .cks) : channelStep cfg c d b a e = cksStep cfg c d b a e := by
  rw [channelStep, h]
end

theorem errorEvent_not_beq (x y : Byte) (d : Dir) (a e : Offset) (p : Payload) :
    errorEvent (!(x == y)) d a e p = if x = y then [] else [stamp d a e p] := by
  by_cases h : x = y <;> simp [errorEvent, h]

theorem afterBody_ne_body (cfg : Config) : afterBody cfg ≠ .body := by
  unfold afterBody; split <;> simp

theorem afterBody_eq_cks {cfg : Config} (h : afterBody cfg = .cks) : cfg.crcPresent = false := by
  rcases trailerLen_cases cfg with ⟨-, -, hafter⟩ | ⟨hcrc, -, -⟩
  · simp [hafter] at h
  · exact hcrc

section
variable {cfg : Config} {d : Dir} {xs : List WireByte} {k : Nat} {p q : Phase} {c : Channel}

theorem InFrame.idx_lt (h : InFrame cfg xs k p c) (hk : k < bufferSize) : c.idx.toNat < bufferSize := by
  rwa [h.holds.idx]

/-- A byte that is stored and writes no register but the phase and the noted offsets. -/
theorem InFrame.advance {field body : Offset} (h : InFrame cfg xs k p c) (hk : 1 < k ∧ k < bufferSize) (hp : p ≠ .cks)
    (hq : q = .cks → cfg.crcPresent = false) (hfield : 3 < k + 1 → field = (wireAt xs 3).start)
    (hbody : q = .body → 9 < k + 1 → body = (wireAt xs 9).start) :
    InFrame cfg xs (k + 1) q
      { stored c (wireAt xs k).byte with phase := q, fieldStart := field, bodyStart := body } where
  phase := rfl
  holds := h.holds.stored hk.2
  frameStart := h.frameStart
  fieldStart := hfield
  bodyStart := hbody
  bodyLen _ := h.bodyLen hk.1
  crcOk := by
    have hclear : c.crcOk = false := by simp [h.crcOk, hp]
    by_cases hcks : q = .cks
    · simp [hclear, frameCrcOk, hq hcks]
    · simp [hclear, hcks]

/-- The length byte (rules R124, R127). -/
theorem takes_len : Takes cfg d xs 1 .len [ownByte d xs 1 (.length (wireAt xs 1).byte)] .appType := by
  intro c h
  refine ⟨_, (channelStep_len h.phase).trans (lenStep_eq cfg d _ _ _ (h.idx_lt (by decide))), ?_⟩
  exact ⟨rfl, h.holds.stored (by decide), h.frameStart, by omega, nofun, fun _ => bodyLength_toNat _ _, h.crcOk⟩

/-- A single-byte header step past the length byte (rules R128, R130 to R132). -/
theorem takes_header {pay : Payload} (hk : 1 < k ∧ k < bufferSize) (hk3 : k ≠ 3) (hp : p ≠ .cks)
    (hq : q ≠ .body ∧ q ≠ .cks) (hstep : ∀ c a e, c.phase = p →
      channelStep cfg c d (wireAt xs k).byte a e = headerStep c d (wireAt xs k).byte a e pay q) :
    Takes cfg d xs k p [ownByte d xs k pay] q := by
  intro c h
  refine ⟨_, (hstep c _ _ h.phase).trans (headerStep_eq d _ _ _ _ _ (h.idx_lt hk.2)), ?_⟩
  exact h.advance hk hp (absurd · hq.2) (fun _ => h.fieldStart (by omega)) (absurd · hq.1)

theorem takes_appType : Takes cfg d xs 2 .appType [ownByte d xs 2 (.appType (wireAt xs 2).byte)] .fixed :=
  takes_header (by decide) (by decide) nofun (by decide) fun c a e hp => by rw [channelStep, hp]
theorem takes_msgId : Takes cfg d xs 5 .msgId [ownByte d xs 5 (.msgId (wireAt xs 5).byte)] .fwVer :=
  takes_header (by decide) (by decide) nofun (by decide) fun c a e hp => by rw [channelStep, hp]
theorem takes_fwVer : Takes cfg d xs 6 .fwVer [ownByte d xs 6 (.fwVer (wireAt xs 6).byte)] .applVer :=
  takes_header (by decide) (by decide) nofun (by decide) fun c a e hp => by rw [channelStep, hp]
theorem takes_applVer : Takes cfg d xs 7 .applVer [ownByte d xs 7 (.applVer (wireAt xs 7).byte)] .msgType :=
  takes_header (by decide) (by decide) nofun (by decide) fun c a e hp => by rw [channelStep, hp]

/-- The first of the two fixed bytes (rule R129). -/
theorem takes_fixed_first : Takes cfg d xs 3 .fixed [] .fixed := by
  intro c h
  refine ⟨{ stored c (wireAt xs 3).byte with phase := .fixed, fieldStart := (wireAt xs 3).start }, ?_, ?_⟩
  · rw [channelStep_fixed h.phase, fixedStep_first d _ _ _ h.holds.idx, ← h.phase]
    rfl
  · exact h.advance (by decide) nofun nofun (fun _ => rfl) nofun

/-- The second of the two fixed bytes (rule R129). -/
theorem takes_fixed_second : Takes cfg d xs 4 .fixed
    [stamp d (wireAt xs 3).start (wireAt xs 4).stop (.fixed (wireAt xs 3).byte (wireAt xs 4).byte)] .msgId := by
  intro c h
  have hbytes := (h.holds.stored (by decide)).bytes
  refine ⟨{ stored c (wireAt xs 4).byte with phase := .msgId }, ?_, ?_⟩
  · rw [channelStep_fixed h.phase, fixedStep_second d _ _ _ (h.idx_lt (by decide)) (by simp [h.holds.idx]),
      hbytes 3 (by decide), hbytes 4 (by decide), h.fieldStart (by decide)]
  · exact h.advance (by decide) nofun nofun (fun _ => h.fieldStart (by decide)) nofun

/-- The message type: the body next, or the trailer when the frame declares none (rule R133). -/
theorem takes_msgType : Takes cfg d xs 8 .msgType [ownByte d xs 8 (.msgType (wireAt xs 8).byte)]
    (if 1 ≤ declaredBody cfg xs then .body else afterBody cfg) := by
  intro c h
  have hstep := msgTypeStep_eq cfg d (wireAt xs 8).byte (wireAt xs 8).start (wireAt xs 8).stop (h.idx_lt (by decide))
  rw [h.bodyLen (by decide)] at hstep
  refine ⟨_, (channelStep_msgType h.phase).trans hstep, ?_⟩
  refine h.advance (by decide) nofun ?_ (fun _ => h.fieldStart (by decide)) (fun _ => by omega)
  split
  · nofun
  · exact afterBody_eq_cks

/-- A body byte with more to come (rule R134). -/
theorem takes_body_more (hk : 9 ≤ k ∧ k < bufferSize) (hmore : k ≠ 8 + declaredBody cfg xs) :
    Takes cfg d xs k .body [] .body := by
  intro c h
  have hstep := bodyStep_more cfg d (wireAt xs k).byte (wireAt xs k).start (wireAt xs k).stop (h.idx_lt hk.2)
    (by rwa [h.holds.idx, h.bodyLen (by omega)])
  rw [markBodyStart_eq, h.holds.idx] at hstep
  refine ⟨{ stored c (wireAt xs k).byte with
    phase := .body, bodyStart := if k = 9 then (wireAt xs k).start else c.bodyStart }, ?_, ?_⟩
  · rw [channelStep_body h.phase, hstep, ← h.phase]
    rfl
  · refine h.advance (by omega) nofun nofun (fun _ => h.fieldStart (by omega)) fun _ _ => ?_
    split
    next h9 => rw [h9]
    next h9 => exact h.bodyStart rfl (by omega)

/-- The last body byte (rule R134). -/
theorem takes_body_last (hk : 8 + declaredBody cfg xs < xs.length ∧ 8 + declaredBody cfg xs < bufferSize)
    (hbody : 1 ≤ declaredBody cfg xs) :
    Takes cfg d xs (8 + declaredBody cfg xs) .body (bodyEvents d xs (declaredBody cfg xs)) (afterBody cfg) := by
  intro c h
  generalize hlast : 8 + declaredBody cfg xs = k at h hk ⊢
  have hstart : (if k = 9 then (wireAt xs k).start else (stored c (wireAt xs k).byte).bodyStart) =
      (wireAt xs 9).start := by
    split
    next h9 => rw [h9]
    next h9 => exact h.bodyStart rfl (by omega)
  have hevs : bodyEvents d xs (declaredBody cfg xs) = [stamp d (wireAt xs 9).start (wireAt xs k).stop
      (.body ((stored c (wireAt xs k).byte).buf.slice 9 (declaredBody cfg xs)))] := by
    rw [(h.holds.stored hk.2).slice_eq (lo := 9) (by omega) (by omega), bodyEvents, if_neg (by omega), hlast]
  have hstep := bodyStep_last cfg d (wireAt xs k).byte (wireAt xs k).start (wireAt xs k).stop (h.idx_lt hk.2)
    (by rw [h.holds.idx, h.bodyLen (by omega), hlast])
  rw [markBodyStart_eq, h.holds.idx, h.bodyLen (by omega), hstart, ← hevs] at hstep
  refine ⟨_, (channelStep_body h.phase).trans hstep, ?_⟩
  exact h.advance (by omega) nofun afterBody_eq_cks (fun _ => h.fieldStart (by omega)) fun hq =>
    absurd hq (afterBody_ne_body cfg)

/-- The CRC byte: the verdict is noted for the handler (rules R26, R135). -/
theorem takes_crc (hcrc : cfg.crcPresent = true)
    (hk : 9 + declaredBody cfg xs < xs.length ∧ 9 + declaredBody cfg xs < bufferSize) :
    Takes cfg d xs (9 + declaredBody cfg xs) .crc (crcEvents cfg d xs (declaredBody cfg xs)) .cks := by
  intro c h
  generalize hlast : 9 + declaredBody cfg xs = k at h hk ⊢
  refine ⟨{ stored c (wireAt xs k).byte with
    crcOk := crcVerdict (crc8 cfg.crc (wireRange xs 9 (declaredBody cfg xs))) (wireAt xs k).byte, phase := .cks },
    ?_, ?_⟩
  · rw [channelStep_crc h.phase, crcStep_eq cfg d _ _ _ (h.idx_lt hk.2) (by rw [h.bodyLen (by omega)]; omega),
      h.bodyLen (by omega), (h.holds.stored hk.2).slice_eq (lo := 9) (n := declaredBody cfg xs) (by omega) (by omega),
      crcEvents, if_pos hcrc, hlast, crcVerdict, errorEvent_not_beq, h.frameStart]
    rfl
  · refine ⟨rfl, h.holds.stored hk.2, h.frameStart, fun _ => h.fieldStart (by omega), nofun,
      fun _ => h.bodyLen (by omega), ?_⟩
    rw [frameCrcOk, hcrc, hlast]
    rfl

/-- The checksum byte ends the frame: its own events, the handler's, and the channel's reset (rules R136, R161). -/
theorem channelStep_cks_frame {k : Nat} (hcfg : configLegal cfg = true) (h : InFrame cfg xs k .cks c)
    (hk : k < xs.length ∧ k < bufferSize) (hlast : k = 8 + declaredBody cfg xs + trailerLen cfg) :
    channelStep cfg c d (wireAt xs k).byte (wireAt xs k).start (wireAt xs k).stop = .ok (Channel.resetValue,
      cksEvents cfg d xs k ++ dispatchEvents cfg (frameOperands cfg d xs (declaredBody cfg xs) k)) := by
  have hstart := ((configLegal_iff cfg).mp hcfg).1
  have hT : 1 ≤ trailerLen cfg := by unfold trailerLen; split <;> decide
  have hstored := h.holds.stored hk.2
  have hargs : frameArgs d (stored c (wireAt xs k).byte) (wireRange xs 9 (declaredBody cfg xs)) (wireAt xs k).stop =
      frameOperands cfg d xs (declaredBody cfg xs) k := by
    rw [frameArgs, frameOperands, offAppType, offMsgType, hstored.bytes 2 (by omega), hstored.bytes 8 (by omega),
      stored_crcOk, h.crcOk, stored_frameStart, h.frameStart]
    rfl
  rw [channelStep_cks h.phase, cksStep_eq cfg d _ _ _ (h.idx_lt hk.2) (by rw [h.bodyLen (by omega)]; omega)
    (by rw [h.holds.idx]; omega), h.bodyLen (by omega), h.holds.idx,
    hstored.slice_eq (lo := 9) (n := declaredBody cfg xs) (by omega) (by omega), hargs,
    hstored.slice_eq (lo := cfg.cksStart.toNat) (n := k - cfg.cksStart.toNat) (by omega) (by omega), cksVerdict,
    errorEvent_not_beq, h.frameStart]
  rfl
end

/-! ### The run over the frame -/

/-- A run that ends took its first step and ran on from there. -/
theorem run_succ_next {s t : State} {n : Nat} (h : run (n + 1) s = .next t) :
    ∃ s', step s = .next s' ∧ run n s' = .next t := by
  cases hs : step s with
  | next s' => exact ⟨s', rfl, (run_succ hs n).symm.trans h⟩
  | fault f =>
    have hcore : Sys2Proof.core.step s = .fault f := hs
    simp [run, Host.Core.run, hcore] at h
  | refused r =>
    have hcore : Sys2Proof.core.step s = .refused r := hs
    simp [run, Host.Core.run, hcore] at h

/-- A run goes on from where it ends. -/
theorem run_snoc {s t u : State} {n : Nat} (h : run n s = .next t) (hstep : step t = .next u) :
    run (n + 1) s = .next u := by
  induction n generalizing s with
  | zero =>
    cases h
    exact run_succ hstep 0
  | succ n ih =>
    obtain ⟨s', hs, hrun⟩ := run_succ_next h
    exact (run_succ hs (n + 1)).trans (ih hrun)

/-- The state in which channel `d` has taken the first `k` bytes of `xs`, with `rest` to come after them. -/
def afterBytes (s : State) (d : Dir) (xs : List WireByte) (rest : List Transaction) (k : Nat) (c : Channel)
    (evs : List Event) : State :=
  { (s.setCh d c).emit evs with input := (xs.drop k).map (WireByte.transaction d) ++ rest }

/-- After `k` steps channel `d` has taken the first `k` bytes of the frame, waits in phase `p`, and has given `evs`. -/
def Reaches (s : State) (d : Dir) (xs : List WireByte) (rest : List Transaction) (k : Nat) (p : Phase)
    (evs : List Event) : Prop :=
  ∃ c, InFrame s.cfg xs k p c ∧ run k s = .next (afterBytes s d xs rest k c evs)

section
variable {s : State} {d : Dir} {xs : List WireByte} {rest : List Transaction} {k : Nat} {p q : Phase} {c c' : Channel}
  {evs more : List Event}

theorem afterBytes_ch : (afterBytes s d xs rest k c evs).ch d = c := by
  rw [afterBytes, State.ch_input, State.emit_ch, State.setCh_ch]

theorem afterBytes_cfg : (afterBytes s d xs rest k c evs).cfg = s.cfg := State.setCh_cfg s d c

theorem afterBytes_launched : (afterBytes s d xs rest k c evs).launched = s.launched := State.setCh_launched s d c

theorem afterBytes_input (hk : k < xs.length) : (afterBytes s d xs rest k c evs).input =
    (wireAt xs k).transaction d :: ((xs.drop (k + 1)).map (WireByte.transaction d) ++ rest) := by
  rw [afterBytes, drop_eq_wireAt_cons hk]
  rfl

/-- The next byte of channel `d` is taken from the input, and its channel's step committed (rules R8, R121). -/
theorem step_afterBytes (hl : s.launched = true) (hk : k < xs.length)
    (hstep : channelStep s.cfg c d (wireAt xs k).byte (wireAt xs k).start (wireAt xs k).stop = .ok (c', more)) :
    step (afterBytes s d xs rest k c evs) = .next (afterBytes s d xs rest (k + 1) c' (evs ++ more)) := by
  rw [step_data (afterBytes_input hk) (packHeader_op _ _ _) (afterBytes_launched.trans hl)]
  simp only [WireByte.transaction, dataTransaction, packHeader_dir, packHeader_byte, afterBytes_ch, afterBytes_cfg,
    hstep]
  cases d <;> simp [commit, afterBytes, State.setCh, State.emit]

theorem Reaches.takes (h : Reaches s d xs rest k p evs) (hl : s.launched = true) (hk : k < xs.length)
    (ht : Takes s.cfg d xs k p more q) : Reaches s d xs rest (k + 1) q (evs ++ more) := by
  obtain ⟨c, hc, hrun⟩ := h
  obtain ⟨c', hstep, hc'⟩ := ht c hc
  exact ⟨c', hc', run_snoc hrun (step_afterBytes hl hk hstep)⟩

theorem afterBytes_zero (hch : s.ch d = Channel.resetValue)
    (hin : s.input = xs.map (WireByte.transaction d) ++ rest) :
    afterBytes s d xs rest 0 Channel.resetValue [] = s := by
  rw [afterBytes, ← hch, State.setCh_self, State.emit_nil, List.drop_zero, ← hin]

/-- The sync byte starts the frame (rules R51, R126). -/
theorem reaches_sync (hl : s.launched = true) (hch : s.ch d = Channel.resetValue)
    (hsync : (wireAt xs 0).byte = syncByte) (hlen : 0 < xs.length)
    (hin : s.input = xs.map (WireByte.transaction d) ++ rest) :
    Reaches s d xs rest 1 .len [ownByte d xs 0 (.sync (wireAt xs 0).byte)] := by
  have hstep := idleStep_sync (c := Channel.resetValue) d (wireAt xs 0).start (wireAt xs 0).stop
  rw [← hsync] at hstep
  have hstart : step s = .next (afterBytes s d xs rest 1 _ _) :=
    (congrArg step (afterBytes_zero hch hin)).symm.trans (step_afterBytes hl hlen hstep)
  refine ⟨_, ?_, run_succ hstart 0⟩
  refine ⟨rfl, ⟨Memory.wf_write _ _ Memory.wf_nil, rfl, fun x hx => ?_⟩, rfl, by omega, nofun, by omega, rfl⟩
  obtain rfl : x = 0 := by omega
  exact Memory.read_write_same 0 _ Memory.wf_nil

end

section
variable {s : State} {d : Dir} {xs : List WireByte} {rest : List Transaction} {evs : List Event}

/-- A frame fits the buffer (rules R5, R124, R142). -/
theorem frame_length_le {cfg : Config} (hlen : xs.length = 9 + declaredBody cfg xs + trailerLen cfg) :
    xs.length ≤ bufferSize := by
  have hb := (wireAt xs 1).byte.isLt
  have hT : trailerLen cfg ≤ 2 := by unfold trailerLen; split <;> decide
  unfold declaredBody at hlen
  unfold bufferSize
  omega

variable (hl : s.launched = true) (hlen : xs.length = 9 + declaredBody s.cfg xs + trailerLen s.cfg)
include hl hlen

/-- The header, from the length byte to the message type (rules R127 to R133). -/
theorem Reaches.header (h : Reaches s d xs rest 1 .len [ownByte d xs 0 (.sync (wireAt xs 0).byte)]) :
    Reaches s d xs rest 9 (if 1 ≤ declaredBody s.cfg xs then .body else afterBody s.cfg) (headerEvents d xs) := by
  have hlength := h.takes hl (by omega) takes_len
  have happType := hlength.takes hl (by omega) takes_appType
  have hfixed := (happType.takes hl (by omega) takes_fixed_first).takes hl (by omega) takes_fixed_second
  have hmsgId := hfixed.takes hl (by omega) takes_msgId
  have hfwVer := hmsgId.takes hl (by omega) takes_fwVer
  have happlVer := hfwVer.takes hl (by omega) takes_applVer
  exact happlVer.takes hl (by omega) takes_msgType

theorem Reaches.body_bytes (h : Reaches s d xs rest 9 .body evs) {j : Nat} (hj : j < declaredBody s.cfg xs) :
    Reaches s d xs rest (9 + j) .body evs := by
  have hle := frame_length_le hlen
  induction j with
  | zero => exact h
  | succ j ih =>
    have hnext := (ih (by omega)).takes hl (by omega) (takes_body_more (by omega) (by omega))
    rwa [List.append_nil] at hnext

/-- The body, when the frame has one (rules R134, R210). -/
theorem Reaches.body (h : Reaches s d xs rest 9 (if 1 ≤ declaredBody s.cfg xs then .body else afterBody s.cfg) evs) :
    Reaches s d xs rest (9 + declaredBody s.cfg xs) (afterBody s.cfg)
      (evs ++ bodyEvents d xs (declaredBody s.cfg xs)) := by
  have hle := frame_length_le hlen
  split at h
  next hbody =>
    have hlast := h.body_bytes hl hlen (j := declaredBody s.cfg xs - 1) (by omega)
    rw [show 9 + (declaredBody s.cfg xs - 1) = 8 + declaredBody s.cfg xs by omega] at hlast
    have hdone := hlast.takes hl (by omega) (takes_body_last (by omega) hbody)
    rwa [show 8 + declaredBody s.cfg xs + 1 = 9 + declaredBody s.cfg xs by omega] at hdone
  next hbody =>
    have hzero : declaredBody s.cfg xs = 0 := by omega
    simpa [hzero, bodyEvents] using h

/-- The CRC byte, when the configuration has one (rules R125, R135). -/
theorem Reaches.crc (h : Reaches s d xs rest (9 + declaredBody s.cfg xs) (afterBody s.cfg) evs) :
    Reaches s d xs rest (8 + declaredBody s.cfg xs + trailerLen s.cfg) .cks
      (evs ++ crcEvents s.cfg d xs (declaredBody s.cfg xs)) := by
  have hle := frame_length_le hlen
  rcases trailerLen_cases s.cfg with ⟨hcrc, hT, hafter⟩ | ⟨hcrc, hT, hafter⟩
  · rw [hafter] at h
    have hdone := h.takes hl (by omega) (takes_crc hcrc (by omega))
    rwa [show 9 + declaredBody s.cfg xs + 1 = 8 + declaredBody s.cfg xs + trailerLen s.cfg by omega] at hdone
  · rw [hafter, show 9 + declaredBody s.cfg xs = 8 + declaredBody s.cfg xs + trailerLen s.cfg by omega] at h
    simpa [crcEvents, hcrc] using h

/-- The checksum byte ends the run at the channel's reset values (rules R31, R136). -/
theorem Reaches.run_frame (hcfg : configLegal s.cfg = true) (hch : s.ch d = Channel.resetValue)
    (h : Reaches s d xs rest (8 + declaredBody s.cfg xs + trailerLen s.cfg) .cks evs) :
    run xs.length s = .next { s with
      input := rest
      output := s.output ++ (evs ++ (cksEvents s.cfg d xs (8 + declaredBody s.cfg xs + trailerLen s.cfg) ++
        dispatchEvents s.cfg (frameOperands s.cfg d xs (declaredBody s.cfg xs)
          (8 + declaredBody s.cfg xs + trailerLen s.cfg)))) } := by
  have hle := frame_length_le hlen
  obtain ⟨c, hc, hrun⟩ := h
  have hend := run_snoc hrun (step_afterBytes hl (by omega) (channelStep_cks_frame hcfg hc (by omega) rfl))
  rw [show 8 + declaredBody s.cfg xs + trailerLen s.cfg + 1 = xs.length by omega] at hend
  rw [hend, afterBytes, ← hch, State.setCh_self, List.drop_length]
  rfl
end

/-- Settles O59: sync byte, header, body, CRC byte and checksum byte in turn, each giving the events of its layout. -/
theorem wholeFrameDecoded : Obligations.WholeFrameDecoded := by
  intro d s xs rest hl hcfg hch hsync hlen hin
  have hheader := (reaches_sync hl hch hsync (by omega) hin).header hl hlen
  rw [((hheader.body hl hlen).crc hl hlen).run_frame hl hlen hcfg hch, frameEvents]
  simp only [List.append_assoc]

end Sys2Proof.Machine

/-! PROOFS. Integrity: the CRC-8 as the bit-reversed loop and its residue (rules R100, R103), the additive checksum
(rules R104 to R106, R108), and the verdicts that the CRC and CKS steps report (rules R101, R102, R106, R107, R135,
R136). -/

namespace Sys2Proof.Machine

open Sys2Proof

/-! ### The CRC-8 generator, bit-reversed -/

section
variable (b c : Byte)

/-- The bit permutation of rule R100 is the library's reversal of a word. -/
theorem reflect8_eq_reverse : ∀ b : Byte, reflect8 b = b.reverse := by decide

@[simp] theorem reflect8_reflect8 : reflect8 (reflect8 b) = b := by
  simp only [reflect8_eq_reverse, BitVec.reverse_reverse_eq]

theorem reflect8_xor : reflect8 (b ^^^ c) = reflect8 b ^^^ reflect8 c := by
  simp only [reflect8_eq_reverse]
  apply BitVec.eq_of_getMsbD_eq
  intro i _
  simp only [BitVec.getMsbD_xor, BitVec.getMsbD_reverse, BitVec.getLsbD_xor]

theorem reflect8_shiftLeft_one : reflect8 (c <<< 1) = reflect8 c >>> 1 := by
  simp only [reflect8_eq_reverse]
  apply BitVec.eq_of_getLsbD_eq
  intro i _
  simp only [BitVec.getLsbD_reverse, BitVec.getMsbD_shiftLeft, BitVec.getLsbD_ushiftRight, Nat.add_comm]

theorem reflect8_getLsbD_zero : (reflect8 c).getLsbD 0 = c.msb := by
  rw [reflect8_eq_reverse, BitVec.getLsbD_reverse, BitVec.msb]

/-- One turn of the bit-reversed loop (rule R100). -/
theorem reflectedTurns_one : reflectedTurns 1 c = if c.getLsbD 0 then (c >>> 1) ^^^ 0x8C else c >>> 1 := rfl

theorem reflectedTurns_succ (n : Nat) : reflectedTurns (n + 1) c = reflectedTurns n (reflectedTurns 1 c) := rfl

/-- One turn reversed is one turn of the bit-reversed loop, `0x8C` being `0x31` reversed. -/
theorem reflect8_crcTurn : reflect8 (crcTurn 0x31 c) = reflectedTurns 1 (reflect8 c) := by
  have hpoly : reflect8 0x31 = 0x8C := by decide
  rw [reflectedTurns_one, reflect8_getLsbD_zero, crcTurn, ← reflect8_shiftLeft_one, ← hpoly, ← reflect8_xor]
  split <;> rfl

theorem reflect8_crcTurns (n : Nat) : reflect8 (crcTurns 0x31 n c) = reflectedTurns n (reflect8 c) := by
  induction n generalizing c with
  | zero => rfl
  | succ n ih => rw [crcTurns, ih, reflect8_crcTurn, ← reflectedTurns_succ]

/-- One byte into the register, reversed: the loop takes the byte as it is, its reflection being undone (rule R100). -/
theorem reflect8_crcByte : reflect8 (crcByte tiedCrc c b) = reflectedTurns 8 (reflect8 c ^^^ b) := by
  rw [crcByte]
  change reflect8 (crcTurns 0x31 8 (c ^^^ reflect8 b)) = _
  rw [reflect8_crcTurns, reflect8_xor, reflect8_reflect8]

/-- The register of the general form is the bit-reversed loop's register reversed, after every byte. -/
theorem reflect8_crcRegister (x : List Byte) : reflect8 (crcRegister tiedCrc c x) =
    x.foldl (fun r b => reflectedTurns 8 (r ^^^ b)) (reflect8 c) := by
  induction x generalizing c with
  | nil => rfl
  | cons b rest ih => rw [crcRegister, ih, reflect8_crcByte, List.foldl_cons]
end

/-- This hardware's CRC-8 is the bit-reversed loop (rule R100). -/
theorem crc8_tiedCrc (x : List Byte) : crc8 tiedCrc x = reflectedCrc8 x := by
  have hinit : reflect8 0x00 = 0x00 := by decide
  calc crc8 tiedCrc x = reflect8 (crcRegister tiedCrc 0x00 x) ^^^ 0x00 := rfl
    _ = reflect8 (crcRegister tiedCrc 0x00 x) := BitVec.xor_zero
    _ = reflectedCrc8 x := by rw [reflect8_crcRegister, hinit, reflectedCrc8]

/-- Settles O40: the general form's register is kept reversed by every turn, every byte and so every sequence. -/
theorem crcIsReflectedLoop : Obligations.CrcIsReflectedLoop := crc8_tiedCrc

/-! ### The residue -/

/-- One more byte into the bit-reversed loop. -/
theorem reflectedCrc8_snoc (x : List Byte) (b : Byte) :
    reflectedCrc8 (x ++ [b]) = reflectedTurns 8 (reflectedCrc8 x ^^^ b) := by
  rw [reflectedCrc8, List.foldl_concat]
  rfl

/-- A turn with the low bit set leaves the top bit of `0x8C`; one with it clear only shifts, and loses no set bit. -/
theorem reflectedTurns_one_eq_zero : ∀ c : Byte, reflectedTurns 1 c = 0x00 ↔ c = 0x00 := by decide

/-- The loop takes no register but 0 to 0. -/
theorem reflectedTurns_eq_zero (n : Nat) (c : Byte) : reflectedTurns n c = 0x00 ↔ c = 0x00 := by
  induction n generalizing c with
  | zero => rfl
  | succ n ih => rw [reflectedTurns_succ, ih, reflectedTurns_one_eq_zero]

/-- The residue is 0 for the sequence's own CRC-8 alone (rule R103). -/
theorem crc8_snoc_eq_zero (x : List Byte) (b : Byte) : crc8 tiedCrc (x ++ [b]) = 0x00 ↔ b = crc8 tiedCrc x := by
  rw [crc8_tiedCrc, crc8_tiedCrc, reflectedCrc8_snoc, reflectedTurns_eq_zero]
  exact BitVec.xor_eq_zero_iff.trans eq_comm

/-- Settles O41: the last byte's turns start from it and the CRC-8 so far xored, and end in 0 only from 0. -/
theorem crcResidueIsZero : Obligations.CrcResidueIsZero := by
  intro x
  exact ⟨(crc8_snoc_eq_zero x _).mpr rfl, crc8_snoc_eq_zero x⟩

/-! ### The additive checksum -/

theorem byteSum_snoc (x : List Byte) (b : Byte) : byteSum (x ++ [b]) = byteSum x + b.toNat := by
  induction x with
  | nil => simp [byteSum]
  | cons c rest ih => rw [List.cons_append, byteSum, ih, byteSum, Nat.add_assoc]

theorem checksum_toNat (x : List Byte) : (checksum x).toNat = (256 - byteSum x % 256) % 256 := by
  rw [checksum, BitVec.toNat_ofNat, Nat.mod_mod]

/-- The checksum is the one byte that brings the sum to 0 mod 256 (rules R104, R105). -/
theorem eq_checksum_iff (x : List Byte) (b : Byte) : b = checksum x ↔ byteSum (x ++ [b]) % 256 = 0 := by
  have hb : b.toNat < 256 := b.isLt
  rw [BitVec.toNat_eq, checksum_toNat, byteSum_snoc]
  omega

theorem checksum_eq_zero {x : List Byte} (h : byteSum x % 256 = 0) : checksum x = 0x00 := by
  rw [checksum, h]
  rfl

/-- Settles O42: an equation of bytes is one of sums mod 256. -/
theorem checksumBringsSumToZero : Obligations.ChecksumBringsSumToZero := by
  intro x b
  exact ⟨eq_checksum_iff x b, checksum_eq_zero, checksum_eq_zero rfl⟩

/-! ### What STORE and a commit leave -/

/-- A channel whose buffer and index are those after STORE has stored the byte (rule R123). -/
theorem Stored.of_stored {c c' : Channel} {b : Byte} (hwf : c.buf.wf = true) (hi : c.idx.toNat < bufferSize)
    (hbuf : c'.buf = (stored c b).buf) (hidx : c'.idx = (stored c b).idx) : Stored c c' b where
  byte := by rw [hbuf, stored_buf, Memory.read_write_same _ _ hwf]
  rest x hx := by rw [hbuf, stored_buf, Memory.read_write_other _ hwf hx.symm]
  idx := by rw [hidx, stored_idx, idx_succ hi]

/-- A commit writes its channel and appends its events, and nothing else (rule R8). -/
theorem OnlyChannel.setCh_emit (s : State) (d : Dir) (c : Channel) (evs : List Event) :
    OnlyChannel d s ((s.setCh d c).emit evs) evs := by
  constructor <;> simp

/-! ### The CRC step -/

theorem exec_crc (d : Dir) (b : Byte) (a e : Offset) (s : State) :
    exec (.crc d b a e) s = commit s d (crcStep s.cfg (s.ch d) d b a e) := rfl

/-- Settles O24: the step leaves the stored channel with the verdict noted, and its events follow the verdict. -/
theorem crcStep_stores_and_reports_verdict : Obligations.CrcStep := by
  intro d b a e s hwf hidx hbody
  have hi : (s.ch d).idx.toNat < bufferSize := Nat.lt_succ_of_le hidx
  have hstep := exec_crc d b a e s
  rw [crcStep_eq s.cfg d b a e hi hbody, crcVerdict, errorEvent_not_beq] at hstep
  refine ⟨_, crc8 s.cfg.crc ((stored (s.ch d) b).buf.slice 9 (s.ch d).bodyLen.toNat), hstep, ?_⟩
  rw [State.emit_ch, State.setCh_ch]
  refine ⟨.of_stored hwf hi rfl rfl, rfl, rfl, rfl, rfl, rfl, rfl, rfl, beq_iff_eq, fun hok => ?_, fun hbad => ?_⟩
  · rw [if_pos hok, beq_iff_eq.mpr hok]
    exact .setCh_emit ..
  · rw [if_neg hbad, beq_eq_false_iff_ne.mpr hbad]
    exact .setCh_emit ..

/-! ### The checksum verdict that CKS reports -/

theorem exec_cks (d : Dir) (b : Byte) (a e : Offset) (s : State) :
    exec (.cks d b a e) s = commit s d (cksStep s.cfg (s.ch d) d b a e) := rfl

section
variable {cfg : Config} {c : Channel} {d : Dir} {b : Byte} {a e : Offset} {r : Channel × List Event}

/-- A body that was read lies inside the buffer. -/
theorem loadBody_ok {body : List Byte} (h : loadBody c = .ok body) : 9 + c.bodyLen.toNat ≤ bufferSize :=
  (loadRange_ok h).1

/-- A CKS step that answers had its index and its body inside the buffer (log entry 7). -/
theorem cksStep_ok (h : cksStep cfg c d b a e = .ok r) :
    c.idx.toNat < bufferSize ∧ 9 + c.bodyLen.toNat ≤ bufferSize := by
  obtain ⟨hi, h⟩ := afterStore_ok h
  refine ⟨hi, ?_⟩
  split at h
  next hbody => exact loadBody_ok (c := stored c b) hbody
  all_goals cases h

/-- The covered bytes and the checksum byte just stored after them (rule R106). -/
theorem slice_stored_snoc {lo : Nat} (hwf : c.buf.wf = true) (hlo : lo ≤ c.idx.toNat) :
    (stored c b).buf.slice lo (c.idx.toNat + 1 - lo) = (stored c b).buf.slice lo (c.idx.toNat - lo) ++ [b] := by
  rw [Nat.sub_add_comm hlo, Memory.slice_snoc, Nat.add_sub_cancel' hlo, stored_buf,
    Memory.read_write_same _ _ hwf]
end

/-- The verdict is that the covered bytes with the stored byte sum to 0 mod 256 (rules R105, R106). -/
theorem cksVerdict_checksum (x : List Byte) (b : Byte) :
    cksVerdict (checksum x) b = true ↔ byteSum (x ++ [b]) % 256 = 0 := by
  rw [cksVerdict, beq_iff_eq, eq_checksum_iff]

/-- Settles O26: the verdict compares the stored byte with the covered bytes' checksum, and the one byte equal to it
is the one that brings their sum to 0. -/
theorem reportedChecksumVerdictIsZeroSum : Obligations.ReportedChecksumVerdictIsZeroSum := by
  intro d b a e s t hwf hstart h
  rw [exec_cks] at h
  obtain ⟨c, evs, hstep, rfl⟩ := commit_next h
  obtain ⟨hi, hbody⟩ := cksStep_ok hstep
  rw [cksStep_eq s.cfg d b a e hi hbody hstart] at hstep
  cases hstep
  rw [State.emit_output, State.setCh_output, slice_stored_snoc hwf hstart]
  exact ⟨_, _, _, rfl, cksVerdict_checksum _ b⟩

end Sys2Proof.Machine

/-! PROOFS. The reassembler: the input operations (rules R121, R122, R138, R140), what each phase step stores, emits and
leaves unchanged (rules R126 to R134, R136), and what holds of every DATA step (rules R137, R142, R143, R230). -/

namespace Sys2Proof.Machine

open Sys2Proof

/-! ### The input operations -/

/-- Settles O9: there is no transaction to fetch. -/
theorem stalledMachineHoldsState : Obligations.StalledMachineHoldsState := by
  intro s h
  exact step_nil h

/-- Settles O11: the row's meaning is to answer the state it is given. -/
theorem otherChangesNothing : Obligations.OtherChangesNothing := by
  intro d b a e s
  rfl

/-- Settles O13: a legal configuration passes the executable check, and every channel read after the reset is the record
of reset values. -/
theorem resetOperation : Obligations.ResetOperation := by
  intro d b a e s hlegal
  refine ⟨resetChannels s, ?_, fun d' => ?_, rfl, rfl, rfl, rfl⟩
  · rw [exec_reset, if_pos ((configLegal_iff s.cfgIn).mpr hlegal)]
  · rw [resetChannels_ch]
    exact ⟨rfl, rfl, fun _ => rfl, rfl, rfl, rfl, rfl, rfl, rfl⟩

/-- Settles O15: one phase of the channel's phase register after the other, both sides are that phase's row. -/
theorem dataRunsSelectedPhase : Obligations.DataRunsSelectedPhase := by
  intro d b a e s
  change execData d b a e s = _
  unfold execData
  cases (s.ch d).phase <;> rfl

/-! ### The rows of the phase steps, each its channel's step committed (rule R8) -/

section
variable (d : Dir) (b : Byte) (a e : Offset) (s : State)

theorem exec_idle : exec (.idle d b a e) s = commit s d (idleStep (s.ch d) d b a e) := rfl
theorem exec_len : exec (.len d b a e) s = commit s d (lenStep s.cfg (s.ch d) d b a e) := rfl
theorem exec_appType :
    exec (.appType d b a e) s = commit s d (headerStep (s.ch d) d b a e (.appType b) .fixed) := rfl
theorem exec_fixed : exec (.fixed d b a e) s = commit s d (fixedStep (s.ch d) d b a e) := rfl
theorem exec_msgId : exec (.msgId d b a e) s = commit s d (headerStep (s.ch d) d b a e (.msgId b) .fwVer) := rfl
theorem exec_fwVer : exec (.fwVer d b a e) s = commit s d (headerStep (s.ch d) d b a e (.fwVer b) .applVer) := rfl
theorem exec_applVer :
    exec (.applVer d b a e) s = commit s d (headerStep (s.ch d) d b a e (.applVer b) .msgType) := rfl
theorem exec_msgType : exec (.msgType d b a e) s = commit s d (msgTypeStep s.cfg (s.ch d) d b a e) := rfl
theorem exec_body : exec (.body d b a e) s = commit s d (bodyStep s.cfg (s.ch d) d b a e) := rfl

/-- A channel's step that writes nothing and emits nothing, committed. -/
theorem commit_unchanged : commit s d (.ok (s.ch d, [])) = .next s := by
  rw [commit, State.setCh_self, State.emit_nil]

theorem State.setCh_emit_ch (c : Channel) (evs : List Event) : ((s.setCh d c).emit evs).ch d = c := by
  rw [State.emit_ch, State.setCh_ch]
end

/-! ### IDLE and the header -/

/-- Settles O17: a discarded byte is an empty commit, and the sync byte is written at index 0 alone. -/
theorem idleStep_starts_frame_at_sync : Obligations.IdleStep := by
  intro d b a e s hwf
  rw [exec_idle]
  constructor
  · intro hb
    rw [idleStep_skip d a e hb, commit_unchanged]
  · rintro rfl
    have hstep := congrArg (commit s d) (idleStep_sync (c := s.ch d) d a e)
    refine ⟨_, hstep, .setCh_emit .., ?_⟩
    rw [State.setCh_emit_ch]
    exact ⟨Memory.read_write_same _ _ hwf, fun x hx => Memory.read_write_other _ hwf hx.symm,
      rfl, rfl, rfl, rfl, rfl, rfl, rfl, rfl⟩

/-- The guarded subtraction of rule R124, in integers. -/
theorem bodyLength_eq_max (cfg : Config) (len : Byte) : ((bodyLength cfg len).toNat : Int) =
    max 0 ((len.toNat : Int) - 8 - (if cfg.crcPresent then 2 else 1)) := by
  rw [bodyLength_toNat, trailerLen]
  split <;> omega

/-- Settles O18: the stored channel with the two length registers and the phase written. -/
theorem lenStep_stores_and_sets_lengths : Obligations.LenStep := by
  intro d b a e s hwf hidx
  have hi : (s.ch d).idx.toNat < bufferSize := Nat.lt_succ_of_le hidx
  rw [exec_len, lenStep_eq s.cfg d b a e hi]
  refine ⟨_, rfl, .setCh_emit .., ?_⟩
  rw [State.setCh_emit_ch]
  exact ⟨.of_stored hwf hi rfl rfl, rfl, bodyLength_eq_max s.cfg b, rfl, rfl, rfl, rfl, rfl⟩

section
variable {s : State} {d : Dir} {b : Byte} {a e : Offset}

/-- A commit of the stored channel in its next phase: the byte is stored, the other frame registers are kept, and the
events are the step's (rules R123, R128, R130 to R133). -/
theorem commit_stored_phase (hwf : (s.ch d).buf.wf = true) (hi : (s.ch d).idx.toNat < bufferSize) (next : Phase)
    (evs : List Event) : ∃ t, commit s d (.ok ({ stored (s.ch d) b with phase := next }, evs)) = .next t ∧
      OnlyChannel d s t evs ∧ Stored (s.ch d) (t.ch d) b ∧ SameFrameRegisters (s.ch d) (t.ch d) ∧
      (t.ch d).phase = next := by
  refine ⟨_, rfl, .setCh_emit .., ?_⟩
  rw [State.setCh_emit_ch]
  exact ⟨.of_stored hwf hi rfl rfl, ⟨rfl, rfl, rfl, rfl, rfl, rfl⟩, rfl⟩

/-- What a single-byte header step leaves (rules R128, R130 to R132). -/
theorem commit_headerStep (hwf : (s.ch d).buf.wf = true) (hidx : (s.ch d).idx.toNat ≤ 255) (p : Payload)
    (next : Phase) : ∃ t, commit s d (headerStep (s.ch d) d b a e p next) = .next t ∧
      OnlyChannel d s t [stamp d a e p] ∧ Stored (s.ch d) (t.ch d) b ∧ SameFrameRegisters (s.ch d) (t.ch d) ∧
      (t.ch d).phase = next := by
  have hi : (s.ch d).idx.toNat < bufferSize := Nat.lt_succ_of_le hidx
  rw [headerStep_eq d b a e p next hi]
  exact commit_stored_phase hwf hi next _
end

/-- Settles O19: a header step. -/
theorem appTypeStep : Obligations.AppTypeStep := by
  intro d b a e s hwf hidx
  rw [exec_appType]
  exact commit_headerStep hwf hidx (.appType b) .fixed

/-- Settles O20: at offset 3 the start is noted, past it the pair is reported. -/
theorem fixedStep_reports_pair : Obligations.FixedStep := by
  intro d b a e s hwf hidx
  have hi : (s.ch d).idx.toNat < bufferSize := Nat.lt_succ_of_le hidx
  rw [exec_fixed]
  by_cases h3 : (s.ch d).idx.toNat = 3
  · rw [fixedStep_first d b a e h3]
    refine ⟨_, rfl, ?_⟩
    rw [State.setCh_emit_ch]
    exact ⟨.of_stored hwf hi rfl rfl, rfl, rfl, rfl, rfl, rfl, fun _ => ⟨.setCh_emit .., rfl, rfl⟩,
      fun hne => absurd h3 hne⟩
  · rw [fixedStep_second d b a e hi h3]
    refine ⟨_, rfl, ?_⟩
    rw [State.setCh_emit_ch]
    exact ⟨.of_stored hwf hi rfl rfl, rfl, rfl, rfl, rfl, rfl, fun heq => absurd heq h3,
      fun _ => ⟨rfl, rfl, .setCh_emit ..⟩⟩

/-- Settles O21: three header steps. -/
theorem msgIdFwVerApplVerSteps : Obligations.MsgIdFwVerApplVerSteps := by
  intro d b a e s hwf hidx
  rw [exec_msgId, exec_fwVer, exec_applVer]
  exact ⟨commit_headerStep hwf hidx (.msgId b) .fwVer, commit_headerStep hwf hidx (.fwVer b) .applVer,
    commit_headerStep hwf hidx (.applVer b) .msgType⟩

/-- Settles O22: the stored channel in the phase that the body length selects. -/
theorem msgTypeStep_chooses_body_or_trailer : Obligations.MsgTypeStep := by
  intro d b a e s hwf hidx
  have hi : (s.ch d).idx.toNat < bufferSize := Nat.lt_succ_of_le hidx
  rw [exec_msgType, msgTypeStep_eq s.cfg d b a e hi]
  exact commit_stored_phase hwf hi _ [stamp d a e (.msgType b)]

/-! ### The body and the checksum -/

/-- Settles O23: the stored channel with the body's start marked; the last byte adds the event and the next phase. -/
theorem bodyStep_reports_body_at_last_byte : Obligations.BodyStep := by
  intro d b a e s hwf hidx
  have hi : (s.ch d).idx.toNat < bufferSize := Nat.lt_succ_of_le hidx
  rw [exec_body]
  by_cases hlast : (s.ch d).idx.toNat = 8 + (s.ch d).bodyLen.toNat
  · rw [bodyStep_last s.cfg d b a e hi hlast, markBodyStart_eq]
    refine ⟨_, rfl, ?_⟩
    rw [State.setCh_emit_ch]
    exact ⟨.of_stored hwf hi rfl rfl, rfl, rfl, rfl, rfl, rfl, rfl, fun _ => ⟨rfl, .setCh_emit ..⟩,
      fun hne => absurd hlast hne⟩
  · rw [bodyStep_more s.cfg d b a e hi hlast, markBodyStart_eq]
    refine ⟨_, rfl, ?_⟩
    rw [State.setCh_emit_ch]
    exact ⟨.of_stored hwf hi rfl rfl, rfl, rfl, rfl, rfl, rfl, rfl, fun heq => absurd heq hlast,
      fun _ => ⟨rfl, .setCh_emit ..⟩⟩

/-- A handler's row appends the handler's events and does nothing else (rule R163). -/
theorem exec_handler_instr (h : Handler) (f : FrameArgs) (s : State) :
    exec (h.instr f) s = .next (s.emit (handlerEvents s.cfg h f)) := by
  cases h <;> rfl

/-- Settles O25: the checksum step commits the reset values, its own events by the verdict, and DISPATCH's events, which
are those of the selected handler's row. -/
theorem cksStep_reports_and_dispatches : Obligations.CksStep := by
  intro d b a e s hwf hidx hbody hstart
  have hi : (s.ch d).idx.toNat < bufferSize := Nat.lt_succ_of_le hidx
  have hstep := exec_cks d b a e s
  rw [cksStep_eq s.cfg d b a e hi hbody hstart, cksVerdict, errorEvent_not_beq] at hstep
  refine ⟨_, _, _, _, hstep, .of_stored hwf hi rfl rfl, rfl, State.setCh_emit_ch .., exec_handler_instr .., rfl,
    fun hok => ?_, fun hbad => ?_⟩
  · rw [if_pos hok, beq_iff_eq.mpr hok]
    exact .setCh_emit ..
  · rw [if_neg hbad, beq_eq_false_iff_ne.mpr hbad]
    exact .setCh_emit ..

/-! ### Every DATA step -/

/-- Settles O45: the position bounds the index by the frame's length, and the length registers bound the frame. -/
theorem indexStaysInBuffer : Obligations.IndexStaysInBuffer := by
  intro s d hs
  have hpos := (hs.channel d).positioned.idx_le
  have hbound := (hs.channel d).bodyBound
  omega

/-- Settles O47: DATA commits its channel's step, which answers. -/
theorem dataCompletes : Obligations.DataCompletes := by
  intro d b a e s hs
  obtain ⟨c, evs, hstep⟩ := channelStep_ok hs.legal (hs.channel d) d b a e
  rw [exec_data, hstep]
  exact ⟨_, rfl⟩

/-! ### No resynchronisation inside a frame -/

/-- No event of the list is a SYNC (rule R137). -/
def NoSync (evs : List Event) : Prop := ∀ ev ∈ evs, ev.kind ≠ .sync

section
variable {d : Dir} {a e : Offset} {p : Payload} {evs evs' : List Event}

theorem NoSync.nil : NoSync [] := List.forall_mem_nil _

theorem NoSync.cons_stamp (h : p.kind ≠ .sync) (hevs : NoSync evs) : NoSync (stamp d a e p :: evs) :=
  List.forall_mem_cons.mpr ⟨h, hevs⟩

theorem NoSync.stamp (h : p.kind ≠ .sync) : NoSync [stamp d a e p] := .cons_stamp h .nil

theorem NoSync.append (h : NoSync evs) (h' : NoSync evs') : NoSync (evs ++ evs') :=
  List.forall_mem_append.mpr ⟨h, h'⟩

theorem NoSync.errorEvent (failed : Bool) (h : p.kind ≠ .sync) : NoSync (errorEvent failed d a e p) := by
  cases failed
  · exact .nil
  · exact .stamp h

/-- No handler emits a SYNC (rules R180 to R189). -/
theorem handlerEvents_noSync (cfg : Config) (h : Handler) (f : FrameArgs) : NoSync (handlerEvents cfg h f) := by
  cases h
  case h04 => exact .cons_stamp nofun (.errorEvent _ nofun)
  case h63 =>
    change NoSync (eventsH63 cfg f)
    unfold eventsH63
    split <;> exact .stamp nofun
  case h82 =>
    change NoSync (eventsH82 f)
    unfold eventsH82
    split <;> exact .stamp nofun
  all_goals exact .stamp nofun
end

/-- A step inside a frame from `c` to `c'`: it stores the byte, stays in the frame, and emits no SYNC. -/
structure StoresInFrame (c c' : Channel) (b : Byte) (evs : List Event) : Prop where
  buf        : c'.buf = (stored c b).buf
  idx        : c'.idx = (stored c b).idx
  frameStart : c'.frameStart = c.frameStart
  noSync     : NoSync evs

section
variable {cfg : Config} {c c' : Channel} {d : Dir} {b : Byte} {a e : Offset} {evs : List Event}

theorem headerStep_storesInFrame {p : Payload} {next : Phase} (h : headerStep c d b a e p next = .ok (c', evs))
    (hp : p.kind ≠ .sync) : StoresInFrame c c' b evs := by
  obtain ⟨-, h⟩ := afterStore_ok h
  cases h
  exact ⟨rfl, rfl, rfl, .stamp hp⟩

/-- Every phase step of a frame before the checksum's stores its byte and goes on with the frame (rule R137). -/
theorem channelStep_storesInFrame (hc : c.Inv cfg) (hidle : c.phase ≠ .idle) (hcks : c.phase ≠ .cks)
    (h : channelStep cfg c d b a e = .ok (c', evs)) : StoresInFrame c c' b evs := by
  have hi := hc.idx_lt
  unfold channelStep at h
  cases hp : c.phase <;> simp only [hp] at h
  case idle => exact absurd hp hidle
  case cks => exact absurd hp hcks
  case len =>
    rw [lenStep_eq cfg d b a e hi] at h
    cases h
    exact ⟨rfl, rfl, rfl, .stamp nofun⟩
  case fixed =>
    by_cases h3 : c.idx.toNat = 3
    · rw [fixedStep_first d b a e h3] at h
      cases h
      exact ⟨rfl, rfl, rfl, .nil⟩
    · rw [fixedStep_second d b a e hi h3] at h
      cases h
      exact ⟨rfl, rfl, rfl, .stamp nofun⟩
  case msgType =>
    rw [msgTypeStep_eq cfg d b a e hi] at h
    cases h
    exact ⟨rfl, rfl, rfl, .stamp nofun⟩
  case body =>
    by_cases hlast : c.idx.toNat = 8 + c.bodyLen.toNat
    · rw [bodyStep_last cfg d b a e hi hlast, markBodyStart_eq] at h
      cases h
      exact ⟨rfl, rfl, rfl, .stamp nofun⟩
    · rw [bodyStep_more cfg d b a e hi hlast, markBodyStart_eq] at h
      cases h
      exact ⟨rfl, rfl, rfl, .nil⟩
  case crc =>
    rw [crcStep_eq cfg d b a e hi hc.body_le] at h
    cases h
    exact ⟨rfl, rfl, rfl, .cons_stamp nofun (.errorEvent _ nofun)⟩
  all_goals exact headerStep_storesInFrame h nofun

/-- The phase that follows inside a frame is past LEN (rules R90, R125). -/
theorem channelStep_phase_past_len (hc : c.Inv cfg) (hidle : c.phase ≠ .idle) (hcks : c.phase ≠ .cks)
    (h : channelStep cfg c d b a e = .ok (c', evs)) : c'.phase ≠ .idle ∧ c'.phase ≠ .len := by
  rw [channelStep_phase hc h]
  cases hp : c.phase <;> dsimp only
  case idle => exact absurd hp hidle
  case cks => exact absurd hp hcks
  case fixed | msgType | body => split_ifs <;> decide
  all_goals decide

theorem cksStep_noSync (h : cksStep cfg c d b a e = .ok (c', evs)) : NoSync evs := by
  obtain ⟨-, h⟩ := afterStore_ok h
  split at h <;> cases h
  exact .append (.cons_stamp nofun (.errorEvent _ nofun)) (handlerEvents_noSync cfg _ _)
end

/-- Settles O54: the checksum step resets the channel, and every other step of a frame stores its byte and stays in
the frame; neither emits a SYNC. -/
theorem noMidFrameResync : Obligations.NoMidFrameResync := by
  intro d b a e s t hs hidle h
  have hc := hs.channel d
  rw [exec_data] at h
  obtain ⟨c, evs, hstep, rfl⟩ := commit_next h
  rw [State.setCh_emit_ch, State.emit_output, State.setCh_output]
  by_cases hcks : (s.ch d).phase = .cks
  · rw [channelStep_cks hcks] at hstep
    exact ⟨⟨evs, rfl, cksStep_noSync hstep⟩, .inr ⟨hcks, cksStep_channel hstep⟩⟩
  · obtain ⟨hbuf, hidx, hframe, hevs⟩ := channelStep_storesInFrame hc hidle hcks hstep
    exact ⟨⟨evs, rfl, hevs⟩, .inl ⟨hcks, .of_stored hc.canonical hc.idx_lt hbuf hidx, hframe,
      channelStep_phase_past_len hc hidle hcks hstep⟩⟩

/-! ### Bytes between frames -/

/-- A byte other than the sync byte, taken by an IDLE channel, is dropped (rules R126, R143). -/
theorem step_idle_skip {s : State} {d : Dir} {x : WireByte} {rest : List Transaction} (hl : s.launched = true)
    (hidle : (s.ch d).phase = .idle) (hx : x.byte ≠ syncByte) (hin : s.input = x.transaction d :: rest) :
    step s = .next { s with input := rest } := by
  have hstep : channelStep s.cfg (s.ch d) d x.byte x.start x.stop = .ok (s.ch d, []) := by
    rw [channelStep, hidle]
    exact idleStep_skip d x.start x.stop hx
  rw [step_data hin (packHeader_op ..) hl]
  simp only [WireByte.transaction, dataTransaction, packHeader_dir, packHeader_byte, hstep]
  rw [← State.ch_input s d rest, commit_unchanged]

/-- Settles O55: byte by byte, each leaves the channel IDLE and the state as it was but for the input. -/
theorem garbageBetweenFramesDropped : Obligations.GarbageBetweenFramesDropped := by
  intro d xs rest s hl hidle hxs hin
  induction xs generalizing s with
  | nil => exact congrArg (fun ts => Host.Outcome.next { s with input := ts }) hin
  | cons x xs ih =>
    obtain ⟨hx, htail⟩ := List.forall_mem_cons.mp hxs
    exact (run_succ (step_idle_skip hl hidle hx hin) xs.length).trans
      (ih { s with input := xs.map (WireByte.transaction d) ++ rest } hl (by rwa [State.ch_input]) htail rfl)

end Sys2Proof.Machine

/-! PROOFS. The message-type dispatcher: the kinds of the events that a handler's row appends (rule R163). -/

namespace Sys2Proof.Machine

open Sys2Proof

/-- The direction error is there in MA alone (rule R184). -/
theorem unexpectedDirEvent_kinds (f : FrameArgs) :
    (unexpectedDirEvent f).map Event.kind = if f.dir = .ma then [.errUnexpectedDir] else [] := by
  rw [unexpectedDirEvent]
  cases f.dir <;> rfl

/-- A handler's events are one CMD, or UNRECOGNIZED from the default, and then the direction error of `H_04` in MA
alone (rules R180 to R189). -/
theorem handlerEvents_kinds (cfg : Config) (h : Handler) (f : FrameArgs) : ∃ ev errs,
    handlerEvents cfg h f = ev :: errs ∧
    ev.kind = (if h = .hDefault then .unrecognized else .cmd) ∧
    errs.map Event.kind = (if h = .h04 ∧ f.dir = .ma then [.errUnexpectedDir] else []) := by
  cases h
  case h04 => exact ⟨_, _, rfl, rfl, by simp [unexpectedDirEvent_kinds]⟩
  case h63 | h82 =>
    obtain ⟨_ | _⟩ := f
    · exact ⟨_, _, rfl, rfl, by simp⟩
    · exact ⟨_, _, rfl, rfl, by simp⟩
  all_goals exact ⟨_, _, rfl, rfl, by simp⟩

/-- Settles O36: a handler's row appends the handler's events, whose kinds are those, and does nothing else. -/
theorem dispatchEmitsOneCommand : Obligations.DispatchEmitsOneCommand := by
  intro h f s
  obtain ⟨ev, errs, hevs, hkind, herrs⟩ := handlerEvents_kinds s.cfg h f
  refine ⟨ev, errs, ?_, hkind, herrs⟩
  rw [exec_handler_instr, hevs, State.emit]

end Sys2Proof.Machine

/-! PROOFS. The message interpreters: the field extractor and its four conversions (rules R171 to R175), and what each
handler selects, appends and leaves unchanged (rules R180 to R189). -/

namespace Sys2Proof.Machine

open Sys2Proof

/-! ### The conversions as arithmetic -/

section
variable (b b0 b1 b2 b3 : Byte) (lsb width : Nat)

theorem convRaw_eq : convRaw b lsb width = b.toNat / 2 ^ lsb % 2 ^ width := by
  rw [convRaw, Nat.shiftRight_eq_div_pow, Nat.one_shiftLeft, Nat.and_two_pow_sub_one_eq_mod]

theorem convRaw_testBit (k : Nat) : (convRaw b lsb width).testBit k = (decide (k < width) && b.getLsbD (lsb + k)) := by
  rw [convRaw_eq, Nat.testBit_mod_two_pow, Nat.testBit_div_two_pow, Nat.add_comm, BitVec.testBit_toNat]

theorem convSetpointX2_eq : convSetpointX2 b = 2 * (b.toNat % 16 + 16) + b.toNat / 16 % 2 := by
  have hlow : (b &&& 0x0F).toNat = b.toNat % 16 := by
    rw [BitVec.toNat_and]
    exact Nat.and_two_pow_sub_one_eq_mod _ 4
  have hbit : (b.getLsbD 4).toNat = b.toNat / 16 % 2 := by
    rw [← BitVec.testBit_toNat, Nat.toNat_testBit]
  rw [convSetpointX2, hlow, hbit]

theorem convIpRev4_toNat : (convIpRev4 b0 b1 b2 b3).toNat =
    b3.toNat * 16777216 + b2.toNat * 65536 + b1.toNat * 256 + b0.toNat := by
  have happend {w : Nat} (x : BitVec w) (y : Byte) : (x ++ y).toNat = x.toNat * 256 + y.toNat := by
    rw [BitVec.toNat_append, ← Nat.shiftLeft_add_eq_or_of_lt y.isLt, Nat.shiftLeft_eq]
  rw [convIpRev4, happend, happend, happend]
  omega
end

/-! ### The extractor -/

theorem bodyByte_eq (body : List Byte) (i : Nat) : bodyByte body i = body[i]?.getD 0 :=
  List.getD_eq_getElem?_getD

theorem convBytes_eq (conv : Conv) : convBytes conv = if conv = .ipRev4 then 4 else 1 := by
  cases conv <;> rfl

section
variable {body : List Byte} {desc : FieldDesc}

/-- A field whose bytes lie beyond the body is absent (rule R171). -/
theorem extract_eq_none (h : body.length < desc.i.toNat + convBytes desc.conv) : extract body desc = none := by
  rw [extract_eq, if_pos h]

/-- A field of a one-byte conversion is there when its byte is, with that byte's value (rule R171). -/
theorem extract_eq_map (value : Byte → Int) (hbytes : convBytes desc.conv = 1)
    (hvalue : convValue body desc = value (bodyByte body desc.i.toNat)) :
    extract body desc = body[desc.i.toNat]?.map fun b => (desc.fid, value b) := by
  rw [extract_eq, hbytes, hvalue, bodyByte_eq]
  cases hget : body[desc.i.toNat]? with
  | none => exact if_pos (Nat.lt_succ_of_le (List.getElem?_eq_none_iff.mp hget))
  | some b =>
    obtain ⟨hlt, -⟩ := List.getElem?_eq_some_iff.mp hget
    exact if_neg (by omega)

theorem extract_raw (h : desc.conv = .raw) : extract body desc = body[desc.i.toNat]?.map fun b =>
    (desc.fid, ((b.toNat / 2 ^ desc.lsb.toNat % 2 ^ desc.width.toNat : Nat) : Int)) := by
  refine extract_eq_map _ (by rw [h, convBytes]) ?_
  simp only [convValue, h, convRaw_eq]

theorem extract_setpointX2 (h : desc.conv = .setpointX2) : extract body desc = body[desc.i.toNat]?.map fun b =>
    (desc.fid, ((2 * (b.toNat % 16 + 16) + b.toNat / 16 % 2 : Nat) : Int)) := by
  refine extract_eq_map _ (by rw [h, convBytes]) ?_
  simp only [convValue, h, convSetpointX2_eq]

theorem extract_tempX2 (h : desc.conv = .tempX2) : extract body desc = body[desc.i.toNat]?.map fun b =>
    (desc.fid, (b.toNat : Int) - 50) := by
  refine extract_eq_map _ (by rw [h, convBytes]) ?_
  simp only [convValue, h, convTempX2]

theorem extract_ipRev4 {b0 b1 b2 b3 : Byte} (h : desc.conv = .ipRev4) (h0 : body[desc.i.toNat]? = some b0)
    (h1 : body[desc.i.toNat + 1]? = some b1) (h2 : body[desc.i.toNat + 2]? = some b2)
    (h3 : body[desc.i.toNat + 3]? = some b3) : extract body desc = some (desc.fid,
      ((b3.toNat * 16777216 + b2.toNat * 65536 + b1.toNat * 256 + b0.toNat : Nat) : Int)) := by
  obtain ⟨hlt, -⟩ := List.getElem?_eq_some_iff.mp h3
  have hfits : ¬ desc.i.toNat + convBytes desc.conv > body.length := by rw [h, convBytes]; omega
  rw [extract_eq, if_neg hfits]
  simp only [convValue, h, bodyByte_eq, h0, h1, h2, h3, Option.getD_some, convIpRev4_toNat]

/-- The four bytes decide whether an address is there and which it is (rule R175). -/
theorem extract_ipRev4_congr {body' : List Byte} (h : desc.conv = .ipRev4)
    (hbytes : ∀ k, k < 4 → body[desc.i.toNat + k]? = body'[desc.i.toNat + k]?) :
    extract body desc = extract body' desc := by
  have hlen (x : List Byte) : desc.i.toNat + 4 > x.length ↔ x[desc.i.toNat + 3]? = none := by
    rw [List.getElem?_eq_none_iff]
    omega
  have h0 := hbytes 0 (by decide)
  have h1 := hbytes 1 (by decide)
  have h2 := hbytes 2 (by decide)
  have h3 := hbytes 3 (by decide)
  rw [Nat.add_zero] at h0
  simp only [extract_eq, convValue, h, convBytes, hlen, bodyByte_eq, h0, h1, h2, h3]

/-- An address extracted is a 32-bit number (rule R175). -/
theorem extract_ipRev4_range {f : Field} (h : desc.conv = .ipRev4) (hf : extract body desc = some f) :
    0 ≤ f.2 ∧ f.2 ≤ 4294967295 := by
  rw [extract_eq] at hf
  split at hf <;> cases hf
  simp only [convValue, h]
  generalize convIpRev4 _ _ _ _ = address
  have hlt := address.isLt
  omega

variable (body)

theorem fieldsOf_cons (desc : FieldDesc) (rest : List FieldDesc) :
    fieldsOf body (desc :: rest) = (extract body desc).toList ++ fieldsOf body rest := by
  rw [fieldsOf]
  cases extract body desc <;> rfl

theorem fieldsOf_eq_filterMap (descs : List FieldDesc) : fieldsOf body descs = descs.filterMap (extract body) := by
  induction descs with
  | nil => rfl
  | cons desc rest ih =>
    rw [fieldsOf_cons, ih, List.filterMap_cons]
    cases extract body desc <;> rfl
end

/-- Settles O37: absent beyond the body; otherwise each conversion as arithmetic on the bytes the body holds. -/
theorem extractFollowsDescriptor : Obligations.ExtractFollowsDescriptor := by
  intro body desc i
  refine ⟨fun hlen => ?_, fun b hb => ⟨fun hraw => ?_, fun hset => ?_, fun htemp => ?_⟩,
    fun b0 b1 b2 b3 h0 h1 h2 h3 hip => extract_ipRev4 hip h0 h1 h2 h3, fieldsOf_eq_filterMap body⟩
  · exact extract_eq_none (by rwa [convBytes_eq])
  · rw [extract_raw hraw, hb, Option.map_some]
  · rw [extract_setpointX2 hset, hb, Option.map_some]
  · rw [extract_tempX2 htemp, hb, Option.map_some]

/-! ### What the conversions range over and depend on -/

section
variable (b : Byte)

theorem convSetpointX2_range : 32 ≤ convSetpointX2 b ∧ convSetpointX2 b ≤ 63 := by
  rw [convSetpointX2_eq]
  omega

theorem convSetpointX2_ignores_high_bits : convSetpointX2 b = convSetpointX2 (b &&& 0x1F) := by
  have hlow : (b &&& 0x1F).toNat = b.toNat % 32 := by
    rw [BitVec.toNat_and]
    exact Nat.and_two_pow_sub_one_eq_mod _ 5
  rw [convSetpointX2_eq, convSetpointX2_eq, hlow]
  omega

theorem convTempX2_range : -50 ≤ convTempX2 b ∧ convTempX2 b ≤ 205 := by
  have hlt := b.isLt
  rw [convTempX2]
  omega

theorem convRaw_lt (lsb width : Nat) : convRaw b lsb width < 2 ^ width := by
  rw [convRaw_eq]
  exact Nat.mod_lt _ (Nat.two_pow_pos width)

theorem convRaw_congr {b' : Byte} {lsb width : Nat}
    (h : ∀ k, lsb ≤ k → k < lsb + width → b.getLsbD k = b'.getLsbD k) :
    convRaw b lsb width = convRaw b' lsb width := by
  refine Nat.eq_of_testBit_eq fun k => ?_
  rw [convRaw_testBit, convRaw_testBit]
  by_cases hk : k < width
  · rw [h (lsb + k) (Nat.le_add_right ..) (Nat.add_lt_add_left hk lsb)]
  · rw [decide_eq_false hk, Bool.false_and, Bool.false_and]
end

theorem convIpRev4_inj {a0 a1 a2 a3 b0 b1 b2 b3 : Byte} (h : convIpRev4 a0 a1 a2 a3 = convIpRev4 b0 b1 b2 b3) :
    a0 = b0 ∧ a1 = b1 ∧ a2 = b2 ∧ a3 = b3 := by
  have hsum := congrArg BitVec.toNat h
  rw [convIpRev4_toNat, convIpRev4_toNat] at hsum
  refine ⟨?_, ?_, ?_, ?_⟩ <;> bv_omega

/-- Settles O38: each conversion's range and what it depends on, from its arithmetic. -/
theorem conversionRanges : Obligations.ConversionRanges :=
  ⟨fun b => ⟨(convSetpointX2_range b).1, (convSetpointX2_range b).2, convSetpointX2_ignores_high_bits b⟩,
    convTempX2_range, convRaw_lt, fun b _ _ _ => convRaw_congr b, fun _ _ _ => extract_ipRev4_range,
    fun _ _ _ => extract_ipRev4_congr, fun _ _ _ _ _ _ _ _ => convIpRev4_inj⟩

/-! ### The fixed layouts -/

section
variable (body : List Byte) (cfg : Config)

theorem extract_descMode :
    extract body descMode = body[1]?.map fun b => (0x00, ((b.toNat / 32 : Nat) : Int)) := by
  refine extract_eq_map (desc := descMode) _ rfl ?_
  have hlt := (bodyByte body 1).isLt
  change ((convRaw (bodyByte body 1) 5 3 : Nat) : Int) = ((bodyByte body 1).toNat / 32 : Nat)
  rw [convRaw_eq]
  omega

/-- The AC fields: the mode, the setpoint, and the configured ones (rules R176, R178). -/
theorem fieldsOf_acLayout : fieldsOf body (acLayout cfg) =
    (body[1]?.map fun b => ((0x00 : BitVec 8), ((b.toNat / 32 : Nat) : Int))).toList ++
    ((body[3]?.map fun b => ((0x01 : BitVec 8), ((2 * (b.toNat % 16 + 16) + b.toNat / 16 % 2 : Nat) : Int))).toList ++
      cfg.acExtra.filterMap (extract body)) := by
  change fieldsOf body (descMode :: descSetpoint :: cfg.acExtra) = _
  rw [fieldsOf_cons, fieldsOf_cons, fieldsOf_eq_filterMap, extract_descMode, extract_setpointX2 rfl]
  rfl

/-- A one-byte code is the whole of the body's first byte (rules R187, R188). -/
theorem extract_firstByte (fid : BitVec 8) :
    extract body ⟨fid, 0, .raw, 0, 8⟩ = body[0]?.map fun b => (fid, (b.toNat : Int)) := by
  refine extract_eq_map (desc := ⟨fid, 0, .raw, 0, 8⟩) _ rfl ?_
  have hlt := (bodyByte body 0).isLt
  change ((convRaw (bodyByte body 0) 0 8 : Nat) : Int) = (bodyByte body 0).toNat
  rw [convRaw_eq]
  omega

theorem fieldsOf_netLayout : fieldsOf body (netLayout cfg) =
    (extract body descNetIp).toList ++ cfg.netExtra.filterMap (extract body) := by
  change fieldsOf body (descNetIp :: cfg.netExtra) = _
  rw [fieldsOf_cons, fieldsOf_eq_filterMap]
end

/-! ### The handlers -/

theorem meaningOf_eq (d : Dir) (inAm inMa : Meaning) : meaningOf d inAm inMa = if d = .am then inAm else inMa := by
  cases d <;> rfl

section
variable {h : Handler} {f : FrameArgs} {s : State} {m inAm inMa : Meaning} {fields : List Field}

/-- A handler whose one event is a CMD appends it, on lane `5d + 4` over the frame (rules R88, R177). -/
theorem exec_cmd (hevs : handlerEvents s.cfg h f = [cmdEvent f m fields]) :
    exec (h.instr f) s = .next { s with output := s.output ++ [⟨f.frameStart, f.stop,
      BitVec.ofNat 4 (5 * f.dir.toNat + 4), .cmd, .cmd f.dir f.appType f.msgType m fields⟩] } := by
  rw [exec_handler_instr, hevs]
  rfl

/-- The same, with the meaning of the direction (rule R190). -/
theorem exec_cmd_meaningOf (hevs : handlerEvents s.cfg h f = [cmdEvent f (meaningOf f.dir inAm inMa) fields]) :
    exec (h.instr f) s = .next { s with output := s.output ++ [⟨f.frameStart, f.stop,
      BitVec.ofNat 4 (5 * f.dir.toNat + 4), .cmd,
      .cmd f.dir f.appType f.msgType (if f.dir = .am then inAm else inMa) fields⟩] } := by
  rw [exec_cmd hevs, meaningOf_eq]
end

/-- Settles O29: the AC layout's fields under the direction's meaning. -/
theorem acStatusAndControlFields : Obligations.AcStatusAndControlFields := by
  intro f s
  refine ⟨by simp [selectHandler_eq_iff, Handles], exec_cmd_meaningOf (h := .h02Ac) ?_⟩
  change [cmdEvent f _ (fieldsOf f.body (acLayout s.cfg))] = _
  rw [fieldsOf_acLayout, List.append_assoc]
  cases f.body[1]? <;> cases f.body[3]? <;> rfl

/-- Settles O32: in AM the address is there with its four bytes, and absent when the last lies beyond the body. -/
theorem networkStatusFields : Obligations.NetworkStatusFields := by
  intro f s cmd
  refine ⟨by simp [selectHandler_eq_iff, Handles], fun hdir => exec_cmd (h := .h63) ?_,
    fun hdir => exec_cmd (h := .h63) ?_⟩
  · change eventsH63 s.cfg f = _
    rw [eventsH63, hdir, fieldsOf_netLayout]
    dsimp only
    split
    next b3 b4 b5 b6 h3 h4 h5 h6 => rw [extract_ipRev4 (desc := descNetIp) rfl h3 h4 h5 h6]; rfl
    next hbeyond =>
      have hlen : f.body.length < 7 := by
        by_contra hge
        exact hbeyond _ _ _ _ (List.getElem?_eq_getElem (by omega)) (List.getElem?_eq_getElem (by omega))
          (List.getElem?_eq_getElem (by omega)) (List.getElem?_eq_getElem (by omega))
      rw [extract_eq_none (desc := descNetIp) hlen]
      rfl
  · change eventsH63 s.cfg f = _
    rw [eventsH63, hdir]

/-- Settles O28: each handler's one event is a CMD with no field. -/
theorem handlersWithoutFields : Obligations.HandlersWithoutFields := by
  intro f s cmd
  refine ⟨exec_cmd_meaningOf (h := .h02) rfl, exec_cmd_meaningOf (h := .h03) rfl,
    exec_cmd_meaningOf (h := .h05) rfl, ?_, ?_, ?_⟩
  all_goals simp [selectHandler_eq_iff, Handles]

/-- Settles O30: the CRC flag as a number, under the direction's meaning. -/
theorem acQueryCarriesCrcVerdict : Obligations.AcQueryCarriesCrcVerdict := by
  intro f s
  refine ⟨by simp [selectHandler_eq_iff, Handles], exec_cmd_meaningOf (h := .h03Ac) ?_⟩
  change eventsH03Ac s.cfg f = _
  rw [eventsH03Ac]
  cases f.crcOk <;> rfl

/-- Settles O31: the direction error follows the report in MA alone. -/
theorem unexpectedDirectionReported : Obligations.UnexpectedDirectionReported := by
  intro f s cmd
  refine ⟨by simp [selectHandler_eq_iff, Handles], ?_, ?_⟩
  all_goals
    obtain ⟨dir, appType, msgType, body, crcOk, frameStart, stop⟩ := f
    rintro rfl
    rfl

/-- Settles O33: the body's first byte in both directions. -/
theorem modeSwitchCode : Obligations.ModeSwitchCode := by
  intro f s
  refine ⟨by simp [selectHandler_eq_iff, Handles], exec_cmd_meaningOf (h := .h81) ?_⟩
  change [cmdEvent f _ (fieldsOf f.body [descSwitchCode])] = _
  rw [descSwitchCode, fieldsOf_cons, extract_firstByte]
  cases f.body <;> rfl

/-- Settles O34: the body's first byte in AM, no field in MA. -/
theorem restartCode : Obligations.RestartCode := by
  intro f s
  refine ⟨by simp [selectHandler_eq_iff, Handles], exec_cmd_meaningOf (h := .h82) ?_⟩
  change eventsH82 f = _
  rw [eventsH82, descRestartCode, fieldsOf_cons, extract_firstByte]
  cases f.dir <;> cases f.body <;> rfl

/-- Settles O35: the default row takes the types of no other, and its one event is UNRECOGNIZED. -/
theorem unrecognizedTypeReported : Obligations.UnrecognizedTypeReported := by
  intro f s
  refine ⟨by simp [selectHandler_eq_iff, Handles, registeredTypes], ?_⟩
  exact exec_handler_instr .hDefault f s

end Sys2Proof.Machine

/-! PROOFS. The event output: the kinds of a step's events in order (rules R210, R211), and the lane, the payload and
the offsets of every event (rules R212, R214, R215). -/

namespace Sys2Proof.Machine

open Sys2Proof

/-! ### The kinds of a step's events -/

/-- The kinds DISPATCH emits for a frame of direction `d` with the handler `h` (rule R163). -/
def dispatchKinds (h : Handler) (d : Dir) : List EventKind :=
  match h with
  | .hDefault => [.unrecognized]
  | .h04      => if d = .ma then [.cmd, .errUnexpectedDir] else [.cmd]
  | _         => [.cmd]

/-- The kinds of a channel's step on the byte `b`, the table of rule R210. -/
def stepKinds (cfg : Config) (c : Channel) (d : Dir) (b : Byte) : List EventKind :=
  match c.phase with
  | .idle    => if b = 0xAA then [.sync] else []
  | .len     => [.length]
  | .appType => [.appType]
  | .fixed   => if c.idx.toNat = 3 then [] else [.fixed]
  | .msgId   => [.msgId]
  | .fwVer   => [.fwVer]
  | .applVer => [.applVer]
  | .msgType => [.msgType]
  | .body    => if c.idx.toNat = 8 + c.bodyLen.toNat then [.body] else []
  | .crc     => if crc8 cfg.crc (c.buf.slice 9 c.bodyLen.toNat) = b then [.crcValue] else [.crcValue, .errCrc]
  | .cks     => [.cksValue] ++
      (if checksum (c.buf.slice cfg.cksStart.toNat (c.idx.toNat - cfg.cksStart.toNat)) = b then [] else [.errCks]) ++
      dispatchKinds (selectHandler (c.buf.read 8) (c.buf.read 2)) d

theorem handlerEvents_map_kind (cfg : Config) (h : Handler) (f : FrameArgs) :
    (handlerEvents cfg h f).map Event.kind = dispatchKinds h f.dir := by
  obtain ⟨ev, errs, hevs, hkind, herrs⟩ := handlerEvents_kinds cfg h f
  rw [hevs, List.map_cons, hkind, herrs]
  cases h
  case h04 => cases f.dir <;> rfl
  all_goals rfl

theorem dispatchKinds_length_le (h : Handler) (d : Dir) : (dispatchKinds h d).length ≤ 2 := by
  cases h
  case h04 => cases d <;> decide
  all_goals exact Nat.le_succ 1

section
variable {cfg : Config} {c c' : Channel} {d : Dir} {b : Byte} {a e : Offset} {evs : List Event}

theorem stepKinds_length_le : (stepKinds cfg c d b).length ≤ 4 := by
  unfold stepKinds
  cases c.phase <;> dsimp only
  case cks =>
    have hdispatch := dispatchKinds_length_le (selectHandler (c.buf.read 8) (c.buf.read 2)) d
    rw [List.length_append, List.length_append]
    split <;> simp only [List.length_cons, List.length_nil] <;> omega
  case idle | fixed | body | crc => split <;> decide
  all_goals decide

/-- STORE leaves the bytes below the index as they are (rule R123). -/
theorem read_stored_below {x : Nat} (hwf : c.buf.wf = true) (hx : x < c.idx.toNat) :
    (stored c b).buf.read x = c.buf.read x :=
  Memory.read_write_other b hwf hx.ne'

theorem slice_stored_below {lo n : Nat} (hwf : c.buf.wf = true) (hn : lo + n ≤ c.idx.toNat) :
    (stored c b).buf.slice lo n = c.buf.slice lo n :=
  Memory.slice_congr fun _ _ hx => read_stored_below hwf (hx.trans_le hn)

theorem crcStep_kinds (hc : c.Inv cfg) (hp : c.phase = .crc) (h : crcStep cfg c d b a e = .ok (c', evs)) :
    evs.map Event.kind = stepKinds cfg c d b := by
  have hpos : cfg.crcPresent = true ∧ c.idx.toNat = 9 + c.bodyLen.toNat := by
    simpa [Channel.Positioned, hp] using hc.positioned
  rw [crcStep_eq cfg d b a e hc.idx_lt hc.body_le, slice_stored_below hc.canonical hpos.2.ge, crcVerdict,
    errorEvent_not_beq] at h
  cases h
  simp only [stepKinds, hp]
  split <;> rfl

theorem cksStep_kinds (hcfg : configLegal cfg = true) (hc : c.Inv cfg) (hp : c.phase = .cks)
    (h : cksStep cfg c d b a e = .ok (c', evs)) : evs.map Event.kind = stepKinds cfg c d b := by
  have hpos : c.idx.toNat = 9 + c.bodyLen.toNat + (trailerLen cfg - 1) := by
    simpa [Channel.Positioned, hp] using hc.positioned
  have hstart := ((configLegal_iff cfg).mp hcfg).1
  have happ := read_stored_below (b := b) (x := 2) hc.canonical (by omega)
  have hmsg := read_stored_below (b := b) (x := 8) hc.canonical (by omega)
  rw [cksStep_eq cfg d b a e hc.idx_lt hc.body_le (by omega),
    slice_stored_below (n := c.idx.toNat - cfg.cksStart.toNat) hc.canonical (by omega), cksVerdict,
    errorEvent_not_beq] at h
  cases h
  simp only [stepKinds, hp, List.map_append, dispatchEvents, handlerEvents_map_kind]
  simp only [frameArgs, offAppType, offMsgType, happ, hmsg, eq_comm (a := b)]
  split <;> rfl

/-- A channel's step emits the kinds of rule R210's table for its phase. -/
theorem channelStep_kinds (hcfg : configLegal cfg = true) (hc : c.Inv cfg)
    (h : channelStep cfg c d b a e = .ok (c', evs)) : evs.map Event.kind = stepKinds cfg c d b := by
  have hi := hc.idx_lt
  unfold channelStep at h
  cases hp : c.phase <;> simp only [hp] at h
  case crc => exact crcStep_kinds hc hp h
  case cks => exact cksStep_kinds hcfg hc hp h
  all_goals simp only [stepKinds, hp]
  case idle =>
    unfold idleStep at h
    split at h <;> cases h
    next hb => exact (if_pos hb).symm
    next hb => exact (if_neg hb).symm
  case len =>
    rw [lenStep_eq cfg d b a e hi] at h
    cases h
    rfl
  case fixed =>
    by_cases h3 : c.idx.toNat = 3
    · rw [fixedStep_first d b a e h3] at h
      cases h
      exact (if_pos h3).symm
    · rw [fixedStep_second d b a e hi h3] at h
      cases h
      exact (if_neg h3).symm
  case msgType =>
    rw [msgTypeStep_eq cfg d b a e hi] at h
    cases h
    rfl
  case body =>
    by_cases hlast : c.idx.toNat = 8 + c.bodyLen.toNat
    · rw [bodyStep_last cfg d b a e hi hlast] at h
      cases h
      exact (if_pos hlast).symm
    · rw [bodyStep_more cfg d b a e hi hlast] at h
      cases h
      exact (if_neg hlast).symm
  all_goals
    rw [headerStep_eq d b a e _ _ hi] at h
    cases h
    rfl
end

/-- Settles O48: DATA appends its channel's events, whose kinds are the table's. -/
theorem eventKindsOfEachStep : Obligations.EventKindsOfEachStep := by
  intro d b a e s t hs h
  rw [exec_data] at h
  obtain ⟨c, evs, hstep, rfl⟩ := commit_next h
  have hkinds := channelStep_kinds hs.legal (hs.channel d) hstep
  refine ⟨evs, by rw [State.emit_output, State.setCh_output], ?_, ?_⟩
  · rw [← List.length_map Event.kind, hkinds]
    exact stepKinds_length_le
  · unfold stepKinds at hkinds
    cases hp : (s.ch d).phase <;> simp only [hp] at hkinds ⊢ <;> exact hkinds

/-! ### What every event of a step is -/

/-- A field of rule R84 with a value of rule R89's range. -/
def KnownField (f : Field) : Prop := f.1 ∈ knownFids ∧ FitsSigned33 f.2

/-- A payload that channel `d` may emit: a direction in it is `d`, and under a legal configuration its fields are known
ones (rules R84, R89). -/
structure Payload.Proper (cfg : Config) (d : Dir) (p : Payload) : Prop where
  dir    : ∀ d', p.dir? = some d' → d' = d
  fields : configLegal cfg = true → ∀ f ∈ p.fields, KnownField f

/-- A start that an event of a channel's step may have: the byte's own, or one the channel noted (rule R214). -/
def Channel.MayStart (c : Channel) (a start : Offset) : Prop :=
  start = a ∨ start = c.frameStart ∨ start = c.fieldStart ∨ start = c.bodyStart

/-- Every event of the list is stamped for channel `d` with a proper payload, ends at `e`, and starts at `a` or at a
start that the channel noted. -/
def Emits (cfg : Config) (c : Channel) (d : Dir) (a e : Offset) (evs : List Event) : Prop :=
  ∀ ev ∈ evs, ∃ start p, c.MayStart a start ∧ p.Proper cfg d ∧ ev = stamp d start e p

section
variable {cfg : Config} {d : Dir} {p : Payload}

theorem Payload.Proper.of_no_fields (hdir : p.dir? = none ∨ p.dir? = some d) (hfields : p.fields = []) :
    p.Proper cfg d where
  dir d' h := by
    rcases hdir with hdir | hdir <;> rw [hdir] at h <;> cases h
    rfl
  fields _ := by rw [hfields]; exact List.forall_mem_nil _

theorem Payload.Proper.cmd {appType msgType : Byte} {m : Meaning} {fields : List Field}
    (h : configLegal cfg = true → ∀ f ∈ fields, KnownField f) :
    (Payload.cmd d appType msgType m fields).Proper cfg d where
  dir _ h := (Option.some.inj h).symm
  fields := h

/-- The lane of a kind is that of rule R212, and the stamp takes kind and lane from the payload. -/
theorem Event.Shaped.stamp (hcfg : configLegal cfg = true) (hp : p.Proper cfg d) (start e : Offset) :
    (stamp d start e p).Shaped d where
  kind := rfl
  lane := by
    simp only [stamp_lane, stamp_kind]
    cases p.kind <;> cases d <;> rfl
  dir := hp.dir
  fields := hp.fields hcfg
end

/-! ### The fields of the layouts -/

section
variable {cfg : Config} {body : List Byte}

theorem extract_fid {desc : FieldDesc} {f : Field} (h : extract body desc = some f) : f.1 = desc.fid := by
  rw [extract_eq] at h
  split at h <;> cases h
  rfl

theorem fieldsOf_known {descs : List FieldDesc} (h : ∀ desc ∈ descs, desc.fid ∈ knownFids) :
    ∀ f ∈ fieldsOf body descs, KnownField f := by
  intro f hf
  rw [fieldsOf_eq_filterMap] at hf
  obtain ⟨desc, hmem, hextract⟩ := List.mem_filterMap.mp hf
  exact ⟨extract_fid hextract ▸ h desc hmem, extractedValuesFitSigned33 body desc f hextract⟩

theorem acExtra_fid_known : ∀ fid : BitVec 8, 0x10 ≤ fid.toNat → fid.toNat ≤ 0x18 → fid ∈ knownFids := by decide

theorem netExtra_fid_known : ∀ fid : BitVec 8, 0x20 ≤ fid.toNat → fid.toNat ≤ 0x25 → fid ∈ knownFids := by decide

theorem acLayout_known (hcfg : configLegal cfg = true) : ∀ f ∈ fieldsOf body (acLayout cfg), KnownField f := by
  obtain ⟨-, ⟨-, hextras, -⟩, -⟩ := (configLegal_iff cfg).mp hcfg
  refine fieldsOf_known (List.forall_mem_append.mpr ⟨by decide, fun desc hmem => ?_⟩)
  obtain ⟨-, hlo, hhi⟩ := hextras desc hmem
  exact acExtra_fid_known desc.fid hlo hhi

theorem netLayout_known (hcfg : configLegal cfg = true) : ∀ f ∈ fieldsOf body (netLayout cfg), KnownField f := by
  obtain ⟨-, -, -, hextras, -⟩ := (configLegal_iff cfg).mp hcfg
  refine fieldsOf_known (List.forall_mem_append.mpr ⟨by decide, fun desc hmem => ?_⟩)
  obtain ⟨-, hlo, hhi⟩ := hextras desc hmem
  exact netExtra_fid_known desc.fid hlo hhi

theorem crcOkField_known (crcOk : Bool) : KnownField (fidCrcOk, (crcOk.toNat : Int)) := by
  cases crcOk <;> exact ⟨by decide, by decide, by decide⟩
end

/-! ### The events of a channel's step -/

section
variable {cfg : Config} {c c' : Channel} {d : Dir} {b : Byte} {a e start : Offset} {p : Payload}
  {evs evs' : List Event}

theorem Emits.nil : Emits cfg c d a e [] := List.forall_mem_nil _

theorem Emits.cons_stamp (hstart : c.MayStart a start) (hp : p.Proper cfg d) (hevs : Emits cfg c d a e evs) :
    Emits cfg c d a e (stamp d start e p :: evs) :=
  List.forall_mem_cons.mpr ⟨⟨start, p, hstart, hp, rfl⟩, hevs⟩

theorem Emits.stamp (hstart : c.MayStart a start) (hp : p.Proper cfg d) : Emits cfg c d a e [stamp d start e p] :=
  .cons_stamp hstart hp .nil

theorem Emits.append (h : Emits cfg c d a e evs) (h' : Emits cfg c d a e evs') : Emits cfg c d a e (evs ++ evs') :=
  List.forall_mem_append.mpr ⟨h, h'⟩

theorem Emits.errorEvent (failed : Bool) (hstart : c.MayStart a start) (hp : p.Proper cfg d) :
    Emits cfg c d a e (errorEvent failed d start e p) := by
  cases failed
  · exact .nil
  · exact .stamp hstart hp

/-- An event over the step's own byte whose payload carries no direction. -/
theorem Emits.ownByte (hdir : p.dir? = none) (hfields : p.fields = []) : Emits cfg c d a e [Machine.stamp d a e p] :=
  .stamp (.inl rfl) (.of_no_fields (.inl hdir) hfields)

/-- The events of a handler are over the frame, with its direction and the fields of its layout (rules R177, R180 to
R189). -/
theorem handlerEvents_emits (h : Handler) (f : FrameArgs) (hstart : c.MayStart a f.frameStart) :
    Emits cfg c f.dir a f.stop (handlerEvents cfg h f) := by
  cases h
  case h02 | h03 | h05 | hDefault => exact .stamp hstart (.of_no_fields (.inr rfl) rfl)
  case h02Ac => exact .stamp hstart (.cmd acLayout_known)
  case h03Ac =>
    refine .stamp hstart (.cmd fun _ => ?_)
    split
    · exact List.forall_mem_singleton.mpr (crcOkField_known f.crcOk)
    · exact List.forall_mem_nil _
  case h04 =>
    exact .cons_stamp hstart (.of_no_fields (.inr rfl) rfl) (.errorEvent _ hstart (.of_no_fields (.inr rfl) rfl))
  case h63 =>
    change Emits cfg c f.dir a f.stop (eventsH63 cfg f)
    unfold eventsH63
    split
    · exact .stamp hstart (.cmd netLayout_known)
    · exact .stamp hstart (.of_no_fields (.inr rfl) rfl)
  case h81 => exact .stamp hstart (.cmd fun _ => fieldsOf_known (by decide))
  case h82 =>
    change Emits cfg c f.dir a f.stop (eventsH82 f)
    unfold eventsH82
    split
    · exact .stamp hstart (.cmd fun _ => fieldsOf_known (by decide))
    · exact .stamp hstart (.of_no_fields (.inr rfl) rfl)

theorem headerStep_emits {next : Phase} (h : headerStep c d b a e p next = .ok (c', evs)) (hdir : p.dir? = none)
    (hfields : p.fields = []) : Emits cfg c d a e evs := by
  obtain ⟨-, h⟩ := afterStore_ok h
  cases h
  exact .ownByte hdir hfields

/-- The body starts at the byte's start when that byte is the body's first, and at the noted start otherwise (rule
R134). -/
theorem markBodyStart_mayStart (n : Nat) : c.MayStart a (markBodyStart n (stored c b) a).bodyStart := by
  rw [markBodyStart_bodyStart]
  split
  · exact .inl rfl
  · exact .inr (.inr (.inr rfl))

theorem bodyStep_emits (h : bodyStep cfg c d b a e = .ok (c', evs)) : Emits cfg c d a e evs := by
  obtain ⟨-, h⟩ := afterStore_ok h
  dsimp only at h
  split at h
  · split at h <;> cases h
    exact .stamp (markBodyStart_mayStart _) (.of_no_fields (.inl rfl) rfl)
  · cases h
    exact .nil

/-- The checksum byte's events are over the byte, the error's and the handler's over the frame (rule R215). -/
theorem cksStep_emits (h : cksStep cfg c d b a e = .ok (c', evs)) : Emits cfg c d a e evs := by
  obtain ⟨-, h⟩ := afterStore_ok h
  have hframe : c.MayStart a (stored c b).frameStart := .inr (.inl rfl)
  split at h <;> cases h
  exact ((Emits.ownByte rfl rfl).append (.errorEvent _ hframe (.of_no_fields (.inr rfl) rfl))).append
    (handlerEvents_emits _ (frameArgs d (stored c b) _ e) hframe)

/-- Every event of a channel's step is stamped for the channel, with copied offsets (rules R88, R212, R214, R215). -/
theorem channelStep_emits (h : channelStep cfg c d b a e = .ok (c', evs)) : Emits cfg c d a e evs := by
  unfold channelStep at h
  cases hp : c.phase <;> simp only [hp] at h
  case body => exact bodyStep_emits h
  case cks => exact cksStep_emits h
  case idle =>
    unfold idleStep at h
    split at h <;> cases h
    · exact .ownByte rfl rfl
    · exact .nil
  case len | msgType =>
    obtain ⟨-, h⟩ := afterStore_ok h
    cases h
    exact .ownByte rfl rfl
  case fixed =>
    obtain ⟨-, h⟩ := afterStore_ok h
    split at h <;> cases h
    · exact .nil
    · exact .stamp (.inr (.inr (.inl rfl))) (.of_no_fields (.inl rfl) rfl)
  case crc =>
    obtain ⟨-, h⟩ := afterStore_ok h
    split at h <;> cases h
    exact (Emits.ownByte rfl rfl).append (.errorEvent _ (.inr (.inl rfl)) (.of_no_fields (.inr rfl) rfl))
  all_goals exact headerStep_emits h rfl rfl

/-- What DATA appends to the output is its channel's events. -/
theorem exec_data_emits {s t : State} (h : exec (.data d b a e) s = .next t) :
    ∃ evs, t.output = s.output ++ evs ∧ Emits s.cfg (s.ch d) d a e evs := by
  rw [exec_data] at h
  obtain ⟨c, evs, hstep, rfl⟩ := commit_next h
  exact ⟨evs, by rw [State.emit_output, State.setCh_output], channelStep_emits hstep⟩
end

/-- Settles O49: a stamped event with a proper payload is shaped. -/
theorem deliveredEventsAreShaped : Obligations.DeliveredEventsAreShaped := by
  intro d b a e s t hs h
  obtain ⟨evs, hout, hevs⟩ := exec_data_emits h
  refine ⟨evs, hout, fun ev hev => ?_⟩
  obtain ⟨start, p, -, hp, rfl⟩ := hevs ev hev
  exact .stamp hs.legal hp start e

/-- Settles O50: an event of the step is stamped with the byte's end and a start that it may have. -/
theorem offsetsAreCopied : Obligations.OffsetsAreCopied := by
  intro d b a e s t h
  obtain ⟨evs, hout, hevs⟩ := exec_data_emits h
  refine ⟨evs, hout, fun ev hev => ?_⟩
  obtain ⟨start, p, hstart, -, rfl⟩ := hevs ev hev
  exact ⟨rfl, hstart⟩

end Sys2Proof.Machine

/-! PROOFS. Faults and refusals: which transactions stop the machine in a state of the invariant (rules R27, R92, R176,
R230, R245). -/

namespace Sys2Proof.Machine

open Sys2Proof

section
variable {s : State} {t : Transaction} {rest : List Transaction}

/-- Everything a step on a presented transaction can answer in a state of the invariant: the reserved operation is
refused, RESET under an illegal configuration is refused, and every other transaction leads to a next state. -/
theorem State.Inv.step_answers (hs : s.Inv) (hin : s.input = t :: rest) :
    (∃ s', step s = .next s') ∨
    (t.hdr.toNat / 512 = 3 ∧ step s = .refused (.reservedEncoding .reservedOp)) ∨
    (t.hdr.toNat / 512 = 2 ∧ ¬ ConfigInRange s.cfgIn ∧ step s = .refused .illegalConfiguration) := by
  have hrun {i : Instr} (hdec : decode t.encoded = .ok i) : step s = exec i { s with input := rest } :=
    step_decoded hin hdec (beforeLaunch_of_launched hs.launched i)
  have hdec := decode_transaction_eq t
  have hlt : t.hdr.toNat < 2048 := t.hdr.isLt
  have hop : t.hdr.toNat / 512 = 0 ∨ t.hdr.toNat / 512 = 1 ∨ t.hdr.toNat / 512 = 2 ∨ t.hdr.toNat / 512 = 3 := by
    omega
  rcases hop with hop | hop | hop | hop <;> simp only [hop, Nat.reduceEqDiff, if_true, if_false] at hdec
  · exact .inl ⟨_, (hrun hdec).trans (otherChangesNothing ..)⟩
  · rw [hrun hdec]
    exact .inl (dataCompletes _ _ _ _ _ (hs.input rest))
  · have hreset := hrun hdec
    rw [exec_reset] at hreset
    split at hreset
    next => exact .inl ⟨_, hreset⟩
    next hlegal => exact .inr (.inr ⟨hop, fun h => hlegal ((configLegal_iff _).mpr h), hreset⟩)
  · exact .inr (.inl ⟨hop, step_undecoded hin hdec⟩)

/-- No step faults in a state of the invariant (rules R230, R245). -/
theorem State.Inv.step_ne_fault (hs : s.Inv) (f : Fault) : step s ≠ .fault f := by
  cases hin : s.input with
  | nil => simp [step_nil hin]
  | cons t rest => rcases hs.step_answers hin with ⟨s', h⟩ | ⟨-, h⟩ | ⟨-, -, h⟩ <;> simp [h]
end

/-- Settles O46: of the three answers a step can give, the two refusals are of the transactions left out. -/
theorem admittedStepsNeverStop : Obligations.AdmittedStepsNeverStop := by
  intro s hs
  refine ⟨fun t rest hin hop hlegal => ?_, hs.step_ne_fault⟩
  rcases hs.step_answers hin with hnext | ⟨hreserved, -⟩ | ⟨hreset, hillegal, -⟩
  · exact hnext
  · exact absurd hreserved hop
  · exact absurd (hlegal hreset) hillegal

end Sys2Proof.Machine

/-! PROOFS. Idempotence under reset (rule R259): a stream of transactions leads from one state to another by the same
events whatever else stands at the ports, and after RESET the configuration inputs are all that is left of the state
before. -/

namespace Sys2Proof.Machine

open Sys2Proof

/-! ### Runs over a stream, whatever stands at the ports -/

/-- A run over more steps goes on from where the first ones lead. -/
theorem run_add {s t : State} {m : Nat} (h : run m s = .next t) (n : Nat) : run (m + n) s = run n t := by
  induction m generalizing s with
  | zero =>
    cases h
    rw [Nat.zero_add]
  | succ m ih =>
    obtain ⟨s', hs, hrun⟩ := run_succ_next h
    rw [Nat.add_right_comm]
    exact (run_succ hs (m + n)).trans (ih hrun)

/-- `s` with the transactions `ts` pending and the events `out` delivered (rules R70, R210). -/
def State.withPorts (s : State) (ts : List Transaction) (out : List Event) : State :=
  { s with input := ts, output := out }

section
variable (s : State) (ts : List Transaction) (out : List Event)

@[simp] theorem State.withPorts_ch (d : Dir) : (s.withPorts ts out).ch d = s.ch d := by cases d <;> rfl
@[simp] theorem State.withPorts_cfg : (s.withPorts ts out).cfg = s.cfg := rfl
@[simp] theorem State.withPorts_input : (s.withPorts ts out).input = ts := rfl
end

/-- Presented with the stream `ts`, the machine goes from `s` to `u` and adds the events `evs`, whatever comes after
the stream and whatever has been delivered before it. The ports of `s` and `u` themselves do not matter. -/
def TakesStream (s : State) (ts : List Transaction) (u : State) (evs : List Event) : Prop :=
  ∀ rest out, run ts.length (s.withPorts (ts ++ rest) out) = .next (u.withPorts rest (out ++ evs))

section
variable {s t u : State} {tx : Transaction} {ts ts' : List Transaction} {evs more : List Event}

theorem TakesStream.nil : TakesStream s [] s [] := fun rest out => by
  rw [List.append_nil]
  rfl

/-- A stream of one transaction is one step. -/
theorem TakesStream.of_step
    (h : ∀ rest out, step (s.withPorts (tx :: rest) out) = .next (t.withPorts rest (out ++ evs))) :
    TakesStream s [tx] t evs :=
  fun rest out => run_succ (h rest out) 0

/-- One stream after the other. -/
theorem TakesStream.append (h : TakesStream s ts t evs) (h' : TakesStream t ts' u more) :
    TakesStream s (ts ++ ts') u (evs ++ more) := by
  intro rest out
  rw [List.length_append, List.append_assoc ts, ← List.append_assoc out]
  exact (run_add (h (ts' ++ rest) out) ts'.length).trans (h' rest (out ++ evs))

/-- With nothing after the stream, the run ends with the input empty. -/
theorem TakesStream.run_eq (h : TakesStream s ts u evs) (out : List Event) :
    run ts.length (s.withPorts ts out) = .next (u.withPorts [] (out ++ evs)) := by
  have hrun := h [] out
  rwa [List.append_nil] at hrun

/-! ### Streams of DATA and OTHER transactions -/

/-- What an OTHER transaction decodes to (rule R71). -/
theorem decode_of_isOther (h : tx.isOther = true) :
    decode tx.encoded = .ok (.other tx.hdr.dir tx.hdr.byte tx.start tx.stop) := by
  have hop : tx.hdr.op = 0b00#2 := by simpa [Transaction.isOther] using h
  simp [Transaction.encoded, decode, decodeInput, hop]

/-- OTHER leaves all but the input as it was (rule R122). -/
theorem takesStream_other (hl : s.launched = true) (hop : tx.isOther = true) : TakesStream s [tx] s [] :=
  .of_step fun rest out => by
    have hlaunched : (s.withPorts (tx :: rest) out).launched = true := hl
    rw [step_decoded (State.withPorts_input ..) (decode_of_isOther hop) (beforeLaunch_of_launched hlaunched _),
      List.append_nil]
    exact otherChangesNothing ..

/-- DATA commits its channel's step, which reads no port (rules R8, R121). -/
theorem takesStream_data {c : Channel} (hl : s.launched = true) (hop : tx.isData = true)
    (h : channelStep s.cfg (s.ch tx.dir) tx.dir tx.hdr.byte tx.start tx.stop = .ok (c, evs)) :
    TakesStream s [tx] ((s.setCh tx.dir c).emit evs) evs :=
  .of_step fun rest out => by
    rw [step_data (State.withPorts_input ..) (eq_of_beq hop) hl, State.withPorts_ch, State.withPorts_cfg,
      ← Transaction.dir, h]
    cases tx.dir <;> rfl

/-- From a state of the invariant every stream of DATA and OTHER transactions is taken whole, and the configuration
inputs stay as they are (log entry 2). -/
theorem State.Inv.takesStream (hs : s.Inv) (hts : ∀ t ∈ ts, t.isData = true ∨ t.isOther = true) :
    ∃ u evs, u.cfgIn = s.cfgIn ∧ TakesStream s ts u evs := by
  induction ts generalizing s with
  | nil => exact ⟨s, [], rfl, .nil⟩
  | cons tx ts ih =>
    obtain ⟨hop, htail⟩ := List.forall_mem_cons.mp hts
    rcases hop with hdata | hother
    · obtain ⟨c, evs, h⟩ := channelStep_ok hs.legal (hs.channel tx.dir) tx.dir tx.hdr.byte tx.start tx.stop
      obtain ⟨u, more, hcfg, hrest⟩ := ih (hs.after_data h) htail
      exact ⟨u, evs ++ more, by simpa using hcfg, (takesStream_data hs.launched hdata h).append hrest⟩
    · obtain ⟨u, more, hcfg, hrest⟩ := ih hs htail
      exact ⟨u, more, hcfg, (takesStream_other hs.launched hother).append hrest⟩
end

/-! ### RESET forgets all but the configuration inputs -/

/-- The state after a RESET that sampled `cfg`, with empty ports (rules R30, R138). -/
def afterReset (cfg : Config) : State := { State.reset with cfg := cfg, cfgIn := cfg }

theorem afterReset_inv {cfg : Config} (h : ConfigInRange cfg) : (afterReset cfg).Inv where
  legal := (configLegal_iff cfg).mpr h
  launched := rfl
  channel d := by
    have hch : (afterReset cfg).ch d = Channel.resetValue := by cases d <;> rfl
    rw [hch]
    exact Channel.resetValue_inv _

/-- Where RESET leads is a function of the configuration inputs alone (rule R138). -/
theorem takesStream_reset {s : State} (h : ConfigInRange s.cfgIn) :
    TakesStream s [resetTransaction] (afterReset s.cfgIn) [] :=
  .of_step fun rest out => by
    rw [step_decoded (State.withPorts_input ..) (decode_of_isReset (by decide)) rfl, exec_reset, List.append_nil]
    exact if_pos ((configLegal_iff s.cfgIn).mpr h)

/-- RESET and a stream after it lead every state with the configuration inputs `cfg` to one state, by one sequence of
events. -/
theorem takesStream_reset_cons {cfg : Config} {ts : List Transaction} (hcfg : ConfigInRange cfg)
    (hts : ∀ t ∈ ts, t.isData = true ∨ t.isOther = true) :
    ∃ u evs, u.cfgIn = cfg ∧ ∀ s : State, s.cfgIn = cfg → TakesStream s (resetTransaction :: ts) u evs := by
  obtain ⟨u, evs, hu, hstream⟩ := (afterReset_inv hcfg).takesStream hts
  refine ⟨u, evs, hu, ?_⟩
  rintro s rfl
  exact (takesStream_reset hcfg).append hstream

/-- Settles O60: the first RESET and stream lead to a state with the configuration inputs unchanged, so the second ones
lead from there to the same state, by the same events. -/
theorem resetMakesStreamsIdempotent : Obligations.ResetMakesStreamsIdempotent := by
  intro s ts hcfg hts
  obtain ⟨u, evs, hu, hreset⟩ := takesStream_reset_cons hcfg hts
  have honce := hreset s rfl
  have htwice := (honce.append (hreset u hu)).run_eq s.output
  rw [List.length_append, ← Nat.two_mul, ← List.append_assoc] at htwice
  exact ⟨u.withPorts [] [], evs, honce.run_eq s.output, htwice⟩

end Sys2Proof.Machine
